-- ==== Sys2Proof/Word.lean ====
section
/-! DEFINITION. The machine's words, operand widths and flag names (00_scope.md R9, R10, R15, R16; 10_state.md R39). -/

namespace Sys2Proof

/-- A 32-bit register cell, address or displacement (R9). -/
abbrev Word := BitVec 32

/-- The addressable unit of memory (20_memory.md R61). -/
abbrev Byte := BitVec 8

/-- The operand widths w of R9: 8, 16 and 32 bits. -/
inductive Width
  | w8
  | w16
  | w32
deriving DecidableEq, Repr

/-- The number of bits of a width. -/
@[reducible] def Width.bits : Width → Nat
  | .w8 => 8
  | .w16 => 16
  | .w32 => 32

/-- The number of bytes a memory operand of a width moves (20_memory.md R72). -/
@[reducible] def Width.bytes : Width → Nat
  | .w8 => 1
  | .w16 => 2
  | .w32 => 4

/-- The seven flags of 10_state.md R39. -/
inductive Flag
  | CF
  | PF
  | AF
  | ZF
  | SF
  | OF
  | DF
deriving DecidableEq, Repr

/-- The FlagsRegister: seven independent booleans, with no bit layout (10_state.md R39, R40). -/
structure Flags where
  CF : Bool
  PF : Bool
  AF : Bool
  ZF : Bool
  SF : Bool
  OF : Bool
  DF : Bool
deriving DecidableEq, Repr

end Sys2Proof
end

