-- ==== Sys2Proof/Syntax.lean ====
section
/-! DEFINITION. The instruction set as syntax: one constructor of `Instr` for each row of spec/opcode_table.json
(30_encoding.md R118 to R120; 40_execution.md R178), with the operand forms of R109 to R113 as types. -/

namespace Sys2Proof

/-- The mnemonics of spec/opcode_table.json, in its order and spelling. -/
inductive Mnemonic
  | ADD
  | OR
  | ADC
  | SBB
  | AND
  | SUB
  | XOR
  | CMP
  | INC
  | DEC
  | TEST
  | NOT
  | NEG
  | MUL
  | IMUL
  | DIV
  | IDIV
  | MOV
  | LEA
  | MOVZX
  | MOVSX
  | CBW
  | CWDE
  | CWD
  | CDQ
  | CMPSB
  | CMPSW
  | CMPSD
  | CLC
  | STC
  | CMC
  | CLD
  | STD
  | AAM
  | AAD
  | ROL
  | ROR
  | RCL
  | RCR
  | SHL
  | SHR
  | SAR
  | CALL
  | RET
  | JMP
  | JO
  | JNO
  | JB
  | JAE
  | JE
  | JNE
  | JBE
  | JA
  | JS
  | JNS
  | JP
  | JNP
  | JL
  | JGE
  | JLE
  | JG
  | CMOVO
  | CMOVNO
  | CMOVB
  | CMOVAE
  | CMOVE
  | CMOVNE
  | CMOVBE
  | CMOVA
  | CMOVS
  | CMOVNS
  | CMOVP
  | CMOVNP
  | CMOVL
  | CMOVGE
  | CMOVLE
  | CMOVG
  | BSF
  | BSR
  | BSWAP
  | BT
  | BTS
  | BTR
  | BTC
deriving DecidableEq, Repr

/-- The eight general cells, in encoding order 0 to 7 (10_state.md R30, R31). -/
inductive Reg
  | eax
  | ecx
  | edx
  | ebx
  | esp
  | ebp
  | esi
  | edi
deriving DecidableEq, Repr

/-- The 8-bit register operands, in encoding order 0 to 7 (10_state.md R32). -/
inductive Reg8
  | al
  | cl
  | dl
  | bl
  | ah
  | ch
  | dh
  | bh
deriving DecidableEq, Repr

/-- The segment overrides that are accepted and ignored (30_encoding.md R104). -/
inductive Seg
  | es
  | cs
  | ss
  | ds
deriving DecidableEq, Repr

/-- The prefix bytes an admitted instruction may carry (30_encoding.md R103 to R106). -/
inductive Prefix
  | opsize
  | lock
  | seg (x : Seg)
deriving DecidableEq, Repr

/-- An instruction's prefixes, in the order read (40_execution.md R161, field `prefixes`). -/
abbrev Prefixes := List Prefix

/-- The SIB scale field `ss` (30_encoding.md R111): the scale is 2^ss. -/
inductive Scale
  | x1
  | x2
  | x4
  | x8
deriving DecidableEq, Repr

/-- The scale and index of a SIB byte; `none` is the encoding `index = 4`, "no index" (30_encoding.md R111). -/
structure Sib where
  scale : Scale
  index : Option Reg
deriving DecidableEq, Repr

/-- The memory forms of the ModR/M and SIB tables (30_encoding.md R110, R111), displacements as encoded.
A base register that a form's encoding gives another reading is excluded by WellFormed. -/
inductive Mem
  /-- mod 0, rm the base (not 4, not 5) -/
  | ind (b : Reg)
  /-- mod 0, rm 5: disp32 absolute -/
  | abs (d : Word)
  /-- mod 0, rm 4, SIB base not 5 -/
  | sib (x : Sib) (b : Reg)
  /-- mod 0, rm 4, SIB base 5: no base, disp32 -/
  | sibAbs (x : Sib) (d : Word)
  /-- mod 1, rm the base (not 4), disp8 -/
  | disp8 (b : Reg) (d : Byte)
  /-- mod 1, rm 4, disp8 -/
  | sibDisp8 (x : Sib) (b : Reg) (d : Byte)
  /-- mod 2, rm the base (not 4), disp32 -/
  | disp32 (b : Reg) (d : Word)
  /-- mod 2, rm 4, disp32 -/
  | sibDisp32 (x : Sib) (b : Reg) (d : Word)
deriving DecidableEq, Repr

/-- The r/m operand (30_encoding.md R110): a register (mod 3) or memory. -/
inductive RM (ρ : Type)
  | reg (r : ρ)
  | mem (m : Mem)
deriving DecidableEq, Repr

/-- The immediate `iz` (30_encoding.md R113): two bytes at operand width 16, four at 32. -/
inductive ImmZ
  | i16 (v : BitVec 16)
  | i32 (v : Word)
deriving DecidableEq, Repr

/-- The condition codes of 46_conditional_move.md R320, in the order of 30_encoding.md R121. -/
inductive Cond
  | O
  | NO
  | B
  | AE
  | E
  | NE
  | BE
  | A
  | S
  | NS
  | P
  | NP
  | L
  | GE
  | LE
  | G
deriving DecidableEq, Repr

/-- The instructions: one constructor for each row of spec/opcode_table.json, in its order.
Every constructor carries the prefixes read before it; `rm` is the r/m operand, `r` the register operand, `m` a memory
form, `v` an immediate and `d` a displacement or absolute address, each as encoded.
`Rm8` and `R8` name 8-bit operands, `Rm` and `R` operands of width 16 or 32 (30_encoding.md R103). -/
inductive Instr
  /-- ADD `00 /r` -/
  | addRm8R8 (p : Prefixes) (rm : RM Reg8) (r : Reg8)
  /-- ADD `01 /r` -/
  | addRmR (p : Prefixes) (rm : RM Reg) (r : Reg)
  /-- ADD `02 /r` -/
  | addR8Rm8 (p : Prefixes) (r : Reg8) (rm : RM Reg8)
  /-- ADD `03 /r` -/
  | addRRm (p : Prefixes) (r : Reg) (rm : RM Reg)
  /-- ADD `04 ib` -/
  | addAlImm8 (p : Prefixes) (v : Byte)
  /-- ADD `05 iz` -/
  | addEaxImm (p : Prefixes) (v : ImmZ)
  /-- ADD `80 /0 ib` -/
  | addRm8Imm8 (p : Prefixes) (rm : RM Reg8) (v : Byte)
  /-- ADD `81 /0 iz` -/
  | addRmImm (p : Prefixes) (rm : RM Reg) (v : ImmZ)
  /-- ADD `83 /0 ib` -/
  | addRmImm8 (p : Prefixes) (rm : RM Reg) (v : Byte)
  /-- OR `08 /r` -/
  | orRm8R8 (p : Prefixes) (rm : RM Reg8) (r : Reg8)
  /-- OR `09 /r` -/
  | orRmR (p : Prefixes) (rm : RM Reg) (r : Reg)
  /-- OR `0A /r` -/
  | orR8Rm8 (p : Prefixes) (r : Reg8) (rm : RM Reg8)
  /-- OR `0B /r` -/
  | orRRm (p : Prefixes) (r : Reg) (rm : RM Reg)
  /-- OR `0C ib` -/
  | orAlImm8 (p : Prefixes) (v : Byte)
  /-- OR `0D iz` -/
  | orEaxImm (p : Prefixes) (v : ImmZ)
  /-- OR `80 /1 ib` -/
  | orRm8Imm8 (p : Prefixes) (rm : RM Reg8) (v : Byte)
  /-- OR `81 /1 iz` -/
  | orRmImm (p : Prefixes) (rm : RM Reg) (v : ImmZ)
  /-- OR `83 /1 ib` -/
  | orRmImm8 (p : Prefixes) (rm : RM Reg) (v : Byte)
  /-- ADC `10 /r` -/
  | adcRm8R8 (p : Prefixes) (rm : RM Reg8) (r : Reg8)
  /-- ADC `11 /r` -/
  | adcRmR (p : Prefixes) (rm : RM Reg) (r : Reg)
  /-- ADC `12 /r` -/
  | adcR8Rm8 (p : Prefixes) (r : Reg8) (rm : RM Reg8)
  /-- ADC `13 /r` -/
  | adcRRm (p : Prefixes) (r : Reg) (rm : RM Reg)
  /-- ADC `14 ib` -/
  | adcAlImm8 (p : Prefixes) (v : Byte)
  /-- ADC `15 iz` -/
  | adcEaxImm (p : Prefixes) (v : ImmZ)
  /-- ADC `80 /2 ib` -/
  | adcRm8Imm8 (p : Prefixes) (rm : RM Reg8) (v : Byte)
  /-- ADC `81 /2 iz` -/
  | adcRmImm (p : Prefixes) (rm : RM Reg) (v : ImmZ)
  /-- ADC `83 /2 ib` -/
  | adcRmImm8 (p : Prefixes) (rm : RM Reg) (v : Byte)
  /-- SBB `18 /r` -/
  | sbbRm8R8 (p : Prefixes) (rm : RM Reg8) (r : Reg8)
  /-- SBB `19 /r` -/
  | sbbRmR (p : Prefixes) (rm : RM Reg) (r : Reg)
  /-- SBB `1A /r` -/
  | sbbR8Rm8 (p : Prefixes) (r : Reg8) (rm : RM Reg8)
  /-- SBB `1B /r` -/
  | sbbRRm (p : Prefixes) (r : Reg) (rm : RM Reg)
  /-- SBB `1C ib` -/
  | sbbAlImm8 (p : Prefixes) (v : Byte)
  /-- SBB `1D iz` -/
  | sbbEaxImm (p : Prefixes) (v : ImmZ)
  /-- SBB `80 /3 ib` -/
  | sbbRm8Imm8 (p : Prefixes) (rm : RM Reg8) (v : Byte)
  /-- SBB `81 /3 iz` -/
  | sbbRmImm (p : Prefixes) (rm : RM Reg) (v : ImmZ)
  /-- SBB `83 /3 ib` -/
  | sbbRmImm8 (p : Prefixes) (rm : RM Reg) (v : Byte)
  /-- AND `20 /r` -/
  | andRm8R8 (p : Prefixes) (rm : RM Reg8) (r : Reg8)
  /-- AND `21 /r` -/
  | andRmR (p : Prefixes) (rm : RM Reg) (r : Reg)
  /-- AND `22 /r` -/
  | andR8Rm8 (p : Prefixes) (r : Reg8) (rm : RM Reg8)
  /-- AND `23 /r` -/
  | andRRm (p : Prefixes) (r : Reg) (rm : RM Reg)
  /-- AND `24 ib` -/
  | andAlImm8 (p : Prefixes) (v : Byte)
  /-- AND `25 iz` -/
  | andEaxImm (p : Prefixes) (v : ImmZ)
  /-- AND `80 /4 ib` -/
  | andRm8Imm8 (p : Prefixes) (rm : RM Reg8) (v : Byte)
  /-- AND `81 /4 iz` -/
  | andRmImm (p : Prefixes) (rm : RM Reg) (v : ImmZ)
  /-- AND `83 /4 ib` -/
  | andRmImm8 (p : Prefixes) (rm : RM Reg) (v : Byte)
  /-- SUB `28 /r` -/
  | subRm8R8 (p : Prefixes) (rm : RM Reg8) (r : Reg8)
  /-- SUB `29 /r` -/
  | subRmR (p : Prefixes) (rm : RM Reg) (r : Reg)
  /-- SUB `2A /r` -/
  | subR8Rm8 (p : Prefixes) (r : Reg8) (rm : RM Reg8)
  /-- SUB `2B /r` -/
  | subRRm (p : Prefixes) (r : Reg) (rm : RM Reg)
  /-- SUB `2C ib` -/
  | subAlImm8 (p : Prefixes) (v : Byte)
  /-- SUB `2D iz` -/
  | subEaxImm (p : Prefixes) (v : ImmZ)
  /-- SUB `80 /5 ib` -/
  | subRm8Imm8 (p : Prefixes) (rm : RM Reg8) (v : Byte)
  /-- SUB `81 /5 iz` -/
  | subRmImm (p : Prefixes) (rm : RM Reg) (v : ImmZ)
  /-- SUB `83 /5 ib` -/
  | subRmImm8 (p : Prefixes) (rm : RM Reg) (v : Byte)
  /-- XOR `30 /r` -/
  | xorRm8R8 (p : Prefixes) (rm : RM Reg8) (r : Reg8)
  /-- XOR `31 /r` -/
  | xorRmR (p : Prefixes) (rm : RM Reg) (r : Reg)
  /-- XOR `32 /r` -/
  | xorR8Rm8 (p : Prefixes) (r : Reg8) (rm : RM Reg8)
  /-- XOR `33 /r` -/
  | xorRRm (p : Prefixes) (r : Reg) (rm : RM Reg)
  /-- XOR `34 ib` -/
  | xorAlImm8 (p : Prefixes) (v : Byte)
  /-- XOR `35 iz` -/
  | xorEaxImm (p : Prefixes) (v : ImmZ)
  /-- XOR `80 /6 ib` -/
  | xorRm8Imm8 (p : Prefixes) (rm : RM Reg8) (v : Byte)
  /-- XOR `81 /6 iz` -/
  | xorRmImm (p : Prefixes) (rm : RM Reg) (v : ImmZ)
  /-- XOR `83 /6 ib` -/
  | xorRmImm8 (p : Prefixes) (rm : RM Reg) (v : Byte)
  /-- CMP `38 /r` -/
  | cmpRm8R8 (p : Prefixes) (rm : RM Reg8) (r : Reg8)
  /-- CMP `39 /r` -/
  | cmpRmR (p : Prefixes) (rm : RM Reg) (r : Reg)
  /-- CMP `3A /r` -/
  | cmpR8Rm8 (p : Prefixes) (r : Reg8) (rm : RM Reg8)
  /-- CMP `3B /r` -/
  | cmpRRm (p : Prefixes) (r : Reg) (rm : RM Reg)
  /-- CMP `3C ib` -/
  | cmpAlImm8 (p : Prefixes) (v : Byte)
  /-- CMP `3D iz` -/
  | cmpEaxImm (p : Prefixes) (v : ImmZ)
  /-- CMP `80 /7 ib` -/
  | cmpRm8Imm8 (p : Prefixes) (rm : RM Reg8) (v : Byte)
  /-- CMP `81 /7 iz` -/
  | cmpRmImm (p : Prefixes) (rm : RM Reg) (v : ImmZ)
  /-- CMP `83 /7 ib` -/
  | cmpRmImm8 (p : Prefixes) (rm : RM Reg) (v : Byte)
  /-- INC `40+r` -/
  | incR (p : Prefixes) (r : Reg)
  /-- DEC `48+r` -/
  | decR (p : Prefixes) (r : Reg)
  /-- INC `FE /0` -/
  | incRm8 (p : Prefixes) (rm : RM Reg8)
  /-- DEC `FE /1` -/
  | decRm8 (p : Prefixes) (rm : RM Reg8)
  /-- INC `FF /0` -/
  | incRm (p : Prefixes) (rm : RM Reg)
  /-- DEC `FF /1` -/
  | decRm (p : Prefixes) (rm : RM Reg)
  /-- TEST `F6 /0 ib` -/
  | testRm8Imm8 (p : Prefixes) (rm : RM Reg8) (v : Byte)
  /-- NOT `F6 /2` -/
  | notRm8 (p : Prefixes) (rm : RM Reg8)
  /-- NEG `F6 /3` -/
  | negRm8 (p : Prefixes) (rm : RM Reg8)
  /-- MUL `F6 /4` -/
  | mulRm8 (p : Prefixes) (rm : RM Reg8)
  /-- IMUL `F6 /5` -/
  | imulRm8 (p : Prefixes) (rm : RM Reg8)
  /-- DIV `F6 /6` -/
  | divRm8 (p : Prefixes) (rm : RM Reg8)
  /-- IDIV `F6 /7` -/
  | idivRm8 (p : Prefixes) (rm : RM Reg8)
  /-- TEST `F7 /0 iz` -/
  | testRmImm (p : Prefixes) (rm : RM Reg) (v : ImmZ)
  /-- NOT `F7 /2` -/
  | notRm (p : Prefixes) (rm : RM Reg)
  /-- NEG `F7 /3` -/
  | negRm (p : Prefixes) (rm : RM Reg)
  /-- MUL `F7 /4` -/
  | mulRm (p : Prefixes) (rm : RM Reg)
  /-- IMUL `F7 /5` -/
  | imulRm (p : Prefixes) (rm : RM Reg)
  /-- DIV `F7 /6` -/
  | divRm (p : Prefixes) (rm : RM Reg)
  /-- IDIV `F7 /7` -/
  | idivRm (p : Prefixes) (rm : RM Reg)
  /-- IMUL `0F AF /r` -/
  | imulRRm (p : Prefixes) (r : Reg) (rm : RM Reg)
  /-- IMUL `69 /r iz` -/
  | imulRRmImm (p : Prefixes) (r : Reg) (rm : RM Reg) (v : ImmZ)
  /-- IMUL `6B /r ib` -/
  | imulRRmImm8 (p : Prefixes) (r : Reg) (rm : RM Reg) (v : Byte)
  /-- TEST `84 /r` -/
  | testRm8R8 (p : Prefixes) (rm : RM Reg8) (r : Reg8)
  /-- TEST `85 /r` -/
  | testRmR (p : Prefixes) (rm : RM Reg) (r : Reg)
  /-- TEST `A8 ib` -/
  | testAlImm8 (p : Prefixes) (v : Byte)
  /-- TEST `A9 iz` -/
  | testEaxImm (p : Prefixes) (v : ImmZ)
  /-- MOV `88 /r` -/
  | movRm8R8 (p : Prefixes) (rm : RM Reg8) (r : Reg8)
  /-- MOV `89 /r` -/
  | movRmR (p : Prefixes) (rm : RM Reg) (r : Reg)
  /-- MOV `8A /r` -/
  | movR8Rm8 (p : Prefixes) (r : Reg8) (rm : RM Reg8)
  /-- MOV `8B /r` -/
  | movRRm (p : Prefixes) (r : Reg) (rm : RM Reg)
  /-- MOV `B0+r ib` -/
  | movR8Imm8 (p : Prefixes) (r : Reg8) (v : Byte)
  /-- MOV `B8+r iz` -/
  | movRImm (p : Prefixes) (r : Reg) (v : ImmZ)
  /-- MOV `C6 /0 ib` -/
  | movRm8Imm8 (p : Prefixes) (rm : RM Reg8) (v : Byte)
  /-- MOV `C7 /0 iz` -/
  | movRmImm (p : Prefixes) (rm : RM Reg) (v : ImmZ)
  /-- MOV `A0 moffs` -/
  | movAlMoffs (p : Prefixes) (d : Word)
  /-- MOV `A1 moffs` -/
  | movEaxMoffs (p : Prefixes) (d : Word)
  /-- MOV `A2 moffs` -/
  | movMoffsAl (p : Prefixes) (d : Word)
  /-- MOV `A3 moffs` -/
  | movMoffsEax (p : Prefixes) (d : Word)
  /-- LEA `8D /r` -/
  | leaRM (p : Prefixes) (r : Reg) (m : Mem)
  /-- MOVZX `0F B6 /r` -/
  | movzxRRm8 (p : Prefixes) (r : Reg) (rm : RM Reg8)
  /-- MOVZX `0F B7 /r` -/
  | movzxRRm16 (p : Prefixes) (r : Reg) (rm : RM Reg)
  /-- MOVSX `0F BE /r` -/
  | movsxRRm8 (p : Prefixes) (r : Reg) (rm : RM Reg8)
  /-- MOVSX `0F BF /r` -/
  | movsxRRm16 (p : Prefixes) (r : Reg) (rm : RM Reg)
  /-- CBW `66 98` -/
  | cbw (p : Prefixes)
  /-- CWDE `98` -/
  | cwde (p : Prefixes)
  /-- CWD `66 99` -/
  | cwd (p : Prefixes)
  /-- CDQ `99` -/
  | cdq (p : Prefixes)
  /-- CMPSB `A6` -/
  | cmpsb (p : Prefixes)
  /-- CMPSW `66 A7` -/
  | cmpsw (p : Prefixes)
  /-- CMPSD `A7` -/
  | cmpsd (p : Prefixes)
  /-- CLC `F8` -/
  | clc (p : Prefixes)
  /-- STC `F9` -/
  | stc (p : Prefixes)
  /-- CMC `F5` -/
  | cmc (p : Prefixes)
  /-- CLD `FC` -/
  | cld (p : Prefixes)
  /-- STD `FD` -/
  | std (p : Prefixes)
  /-- AAM `D4 ib` -/
  | aamImm8 (p : Prefixes) (v : Byte)
  /-- AAD `D5 ib` -/
  | aadImm8 (p : Prefixes) (v : Byte)
  /-- ROL `C0 /0 ib` -/
  | rolRm8Imm8 (p : Prefixes) (rm : RM Reg8) (v : Byte)
  /-- ROL `C1 /0 ib` -/
  | rolRmImm8 (p : Prefixes) (rm : RM Reg) (v : Byte)
  /-- ROL `D0 /0` -/
  | rolRm8One (p : Prefixes) (rm : RM Reg8)
  /-- ROL `D1 /0` -/
  | rolRmOne (p : Prefixes) (rm : RM Reg)
  /-- ROL `D2 /0` -/
  | rolRm8Cl (p : Prefixes) (rm : RM Reg8)
  /-- ROL `D3 /0` -/
  | rolRmCl (p : Prefixes) (rm : RM Reg)
  /-- ROR `C0 /1 ib` -/
  | rorRm8Imm8 (p : Prefixes) (rm : RM Reg8) (v : Byte)
  /-- ROR `C1 /1 ib` -/
  | rorRmImm8 (p : Prefixes) (rm : RM Reg) (v : Byte)
  /-- ROR `D0 /1` -/
  | rorRm8One (p : Prefixes) (rm : RM Reg8)
  /-- ROR `D1 /1` -/
  | rorRmOne (p : Prefixes) (rm : RM Reg)
  /-- ROR `D2 /1` -/
  | rorRm8Cl (p : Prefixes) (rm : RM Reg8)
  /-- ROR `D3 /1` -/
  | rorRmCl (p : Prefixes) (rm : RM Reg)
  /-- RCL `C0 /2 ib` -/
  | rclRm8Imm8 (p : Prefixes) (rm : RM Reg8) (v : Byte)
  /-- RCL `C1 /2 ib` -/
  | rclRmImm8 (p : Prefixes) (rm : RM Reg) (v : Byte)
  /-- RCL `D0 /2` -/
  | rclRm8One (p : Prefixes) (rm : RM Reg8)
  /-- RCL `D1 /2` -/
  | rclRmOne (p : Prefixes) (rm : RM Reg)
  /-- RCL `D2 /2` -/
  | rclRm8Cl (p : Prefixes) (rm : RM Reg8)
  /-- RCL `D3 /2` -/
  | rclRmCl (p : Prefixes) (rm : RM Reg)
  /-- RCR `C0 /3 ib` -/
  | rcrRm8Imm8 (p : Prefixes) (rm : RM Reg8) (v : Byte)
  /-- RCR `C1 /3 ib` -/
  | rcrRmImm8 (p : Prefixes) (rm : RM Reg) (v : Byte)
  /-- RCR `D0 /3` -/
  | rcrRm8One (p : Prefixes) (rm : RM Reg8)
  /-- RCR `D1 /3` -/
  | rcrRmOne (p : Prefixes) (rm : RM Reg)
  /-- RCR `D2 /3` -/
  | rcrRm8Cl (p : Prefixes) (rm : RM Reg8)
  /-- RCR `D3 /3` -/
  | rcrRmCl (p : Prefixes) (rm : RM Reg)
  /-- SHL `C0 /4 ib` -/
  | shlRm8Imm8 (p : Prefixes) (rm : RM Reg8) (v : Byte)
  /-- SHL `C1 /4 ib` -/
  | shlRmImm8 (p : Prefixes) (rm : RM Reg) (v : Byte)
  /-- SHL `D0 /4` -/
  | shlRm8One (p : Prefixes) (rm : RM Reg8)
  /-- SHL `D1 /4` -/
  | shlRmOne (p : Prefixes) (rm : RM Reg)
  /-- SHL `D2 /4` -/
  | shlRm8Cl (p : Prefixes) (rm : RM Reg8)
  /-- SHL `D3 /4` -/
  | shlRmCl (p : Prefixes) (rm : RM Reg)
  /-- SHR `C0 /5 ib` -/
  | shrRm8Imm8 (p : Prefixes) (rm : RM Reg8) (v : Byte)
  /-- SHR `C1 /5 ib` -/
  | shrRmImm8 (p : Prefixes) (rm : RM Reg) (v : Byte)
  /-- SHR `D0 /5` -/
  | shrRm8One (p : Prefixes) (rm : RM Reg8)
  /-- SHR `D1 /5` -/
  | shrRmOne (p : Prefixes) (rm : RM Reg)
  /-- SHR `D2 /5` -/
  | shrRm8Cl (p : Prefixes) (rm : RM Reg8)
  /-- SHR `D3 /5` -/
  | shrRmCl (p : Prefixes) (rm : RM Reg)
  /-- SAR `C0 /7 ib` -/
  | sarRm8Imm8 (p : Prefixes) (rm : RM Reg8) (v : Byte)
  /-- SAR `C1 /7 ib` -/
  | sarRmImm8 (p : Prefixes) (rm : RM Reg) (v : Byte)
  /-- SAR `D0 /7` -/
  | sarRm8One (p : Prefixes) (rm : RM Reg8)
  /-- SAR `D1 /7` -/
  | sarRmOne (p : Prefixes) (rm : RM Reg)
  /-- SAR `D2 /7` -/
  | sarRm8Cl (p : Prefixes) (rm : RM Reg8)
  /-- SAR `D3 /7` -/
  | sarRmCl (p : Prefixes) (rm : RM Reg)
  /-- CALL `E8 cd` -/
  | callRel32 (p : Prefixes) (d : Word)
  /-- CALL `FF /2` -/
  | callRm32 (p : Prefixes) (rm : RM Reg)
  /-- RET `C3` -/
  | ret (p : Prefixes)
  /-- RET `C2 iw` -/
  | retImm16 (p : Prefixes) (v : BitVec 16)
  /-- JMP `EB cb` -/
  | jmpRel8 (p : Prefixes) (d : Byte)
  /-- JMP `E9 cd` -/
  | jmpRel32 (p : Prefixes) (d : Word)
  /-- JMP `FF /4` -/
  | jmpRm32 (p : Prefixes) (rm : RM Reg)
  /-- JO `70 cb` -/
  | joRel8 (p : Prefixes) (d : Byte)
  /-- JO `0F 80 cd` -/
  | joRel32 (p : Prefixes) (d : Word)
  /-- JNO `71 cb` -/
  | jnoRel8 (p : Prefixes) (d : Byte)
  /-- JNO `0F 81 cd` -/
  | jnoRel32 (p : Prefixes) (d : Word)
  /-- JB `72 cb` -/
  | jbRel8 (p : Prefixes) (d : Byte)
  /-- JB `0F 82 cd` -/
  | jbRel32 (p : Prefixes) (d : Word)
  /-- JAE `73 cb` -/
  | jaeRel8 (p : Prefixes) (d : Byte)
  /-- JAE `0F 83 cd` -/
  | jaeRel32 (p : Prefixes) (d : Word)
  /-- JE `74 cb` -/
  | jeRel8 (p : Prefixes) (d : Byte)
  /-- JE `0F 84 cd` -/
  | jeRel32 (p : Prefixes) (d : Word)
  /-- JNE `75 cb` -/
  | jneRel8 (p : Prefixes) (d : Byte)
  /-- JNE `0F 85 cd` -/
  | jneRel32 (p : Prefixes) (d : Word)
  /-- JBE `76 cb` -/
  | jbeRel8 (p : Prefixes) (d : Byte)
  /-- JBE `0F 86 cd` -/
  | jbeRel32 (p : Prefixes) (d : Word)
  /-- JA `77 cb` -/
  | jaRel8 (p : Prefixes) (d : Byte)
  /-- JA `0F 87 cd` -/
  | jaRel32 (p : Prefixes) (d : Word)
  /-- JS `78 cb` -/
  | jsRel8 (p : Prefixes) (d : Byte)
  /-- JS `0F 88 cd` -/
  | jsRel32 (p : Prefixes) (d : Word)
  /-- JNS `79 cb` -/
  | jnsRel8 (p : Prefixes) (d : Byte)
  /-- JNS `0F 89 cd` -/
  | jnsRel32 (p : Prefixes) (d : Word)
  /-- JP `7A cb` -/
  | jpRel8 (p : Prefixes) (d : Byte)
  /-- JP `0F 8A cd` -/
  | jpRel32 (p : Prefixes) (d : Word)
  /-- JNP `7B cb` -/
  | jnpRel8 (p : Prefixes) (d : Byte)
  /-- JNP `0F 8B cd` -/
  | jnpRel32 (p : Prefixes) (d : Word)
  /-- JL `7C cb` -/
  | jlRel8 (p : Prefixes) (d : Byte)
  /-- JL `0F 8C cd` -/
  | jlRel32 (p : Prefixes) (d : Word)
  /-- JGE `7D cb` -/
  | jgeRel8 (p : Prefixes) (d : Byte)
  /-- JGE `0F 8D cd` -/
  | jgeRel32 (p : Prefixes) (d : Word)
  /-- JLE `7E cb` -/
  | jleRel8 (p : Prefixes) (d : Byte)
  /-- JLE `0F 8E cd` -/
  | jleRel32 (p : Prefixes) (d : Word)
  /-- JG `7F cb` -/
  | jgRel8 (p : Prefixes) (d : Byte)
  /-- JG `0F 8F cd` -/
  | jgRel32 (p : Prefixes) (d : Word)
  /-- CMOVO `0F 40 /r` -/
  | cmovoRRm (p : Prefixes) (r : Reg) (rm : RM Reg)
  /-- CMOVNO `0F 41 /r` -/
  | cmovnoRRm (p : Prefixes) (r : Reg) (rm : RM Reg)
  /-- CMOVB `0F 42 /r` -/
  | cmovbRRm (p : Prefixes) (r : Reg) (rm : RM Reg)
  /-- CMOVAE `0F 43 /r` -/
  | cmovaeRRm (p : Prefixes) (r : Reg) (rm : RM Reg)
  /-- CMOVE `0F 44 /r` -/
  | cmoveRRm (p : Prefixes) (r : Reg) (rm : RM Reg)
  /-- CMOVNE `0F 45 /r` -/
  | cmovneRRm (p : Prefixes) (r : Reg) (rm : RM Reg)
  /-- CMOVBE `0F 46 /r` -/
  | cmovbeRRm (p : Prefixes) (r : Reg) (rm : RM Reg)
  /-- CMOVA `0F 47 /r` -/
  | cmovaRRm (p : Prefixes) (r : Reg) (rm : RM Reg)
  /-- CMOVS `0F 48 /r` -/
  | cmovsRRm (p : Prefixes) (r : Reg) (rm : RM Reg)
  /-- CMOVNS `0F 49 /r` -/
  | cmovnsRRm (p : Prefixes) (r : Reg) (rm : RM Reg)
  /-- CMOVP `0F 4A /r` -/
  | cmovpRRm (p : Prefixes) (r : Reg) (rm : RM Reg)
  /-- CMOVNP `0F 4B /r` -/
  | cmovnpRRm (p : Prefixes) (r : Reg) (rm : RM Reg)
  /-- CMOVL `0F 4C /r` -/
  | cmovlRRm (p : Prefixes) (r : Reg) (rm : RM Reg)
  /-- CMOVGE `0F 4D /r` -/
  | cmovgeRRm (p : Prefixes) (r : Reg) (rm : RM Reg)
  /-- CMOVLE `0F 4E /r` -/
  | cmovleRRm (p : Prefixes) (r : Reg) (rm : RM Reg)
  /-- CMOVG `0F 4F /r` -/
  | cmovgRRm (p : Prefixes) (r : Reg) (rm : RM Reg)
  /-- BSF `0F BC /r` -/
  | bsfRRm (p : Prefixes) (r : Reg) (rm : RM Reg)
  /-- BSR `0F BD /r` -/
  | bsrRRm (p : Prefixes) (r : Reg) (rm : RM Reg)
  /-- BSWAP `0F C8+r` -/
  | bswapR32 (p : Prefixes) (r : Reg)
  /-- BT `0F A3 /r` -/
  | btRmR (p : Prefixes) (rm : RM Reg) (r : Reg)
  /-- BT `0F BA /4 ib` -/
  | btRmImm8 (p : Prefixes) (rm : RM Reg) (v : Byte)
  /-- BTS `0F AB /r` -/
  | btsRmR (p : Prefixes) (rm : RM Reg) (r : Reg)
  /-- BTS `0F BA /5 ib` -/
  | btsRmImm8 (p : Prefixes) (rm : RM Reg) (v : Byte)
  /-- BTR `0F B3 /r` -/
  | btrRmR (p : Prefixes) (rm : RM Reg) (r : Reg)
  /-- BTR `0F BA /6 ib` -/
  | btrRmImm8 (p : Prefixes) (rm : RM Reg) (v : Byte)
  /-- BTC `0F BB /r` -/
  | btcRmR (p : Prefixes) (rm : RM Reg) (r : Reg)
  /-- BTC `0F BA /7 ib` -/
  | btcRmImm8 (p : Prefixes) (rm : RM Reg) (v : Byte)
deriving DecidableEq, Repr

/-- The rows of spec/opcode_table.json by name: `Instr` without its operands. -/
inductive Form
  | addRm8R8
  | addRmR
  | addR8Rm8
  | addRRm
  | addAlImm8
  | addEaxImm
  | addRm8Imm8
  | addRmImm
  | addRmImm8
  | orRm8R8
  | orRmR
  | orR8Rm8
  | orRRm
  | orAlImm8
  | orEaxImm
  | orRm8Imm8
  | orRmImm
  | orRmImm8
  | adcRm8R8
  | adcRmR
  | adcR8Rm8
  | adcRRm
  | adcAlImm8
  | adcEaxImm
  | adcRm8Imm8
  | adcRmImm
  | adcRmImm8
  | sbbRm8R8
  | sbbRmR
  | sbbR8Rm8
  | sbbRRm
  | sbbAlImm8
  | sbbEaxImm
  | sbbRm8Imm8
  | sbbRmImm
  | sbbRmImm8
  | andRm8R8
  | andRmR
  | andR8Rm8
  | andRRm
  | andAlImm8
  | andEaxImm
  | andRm8Imm8
  | andRmImm
  | andRmImm8
  | subRm8R8
  | subRmR
  | subR8Rm8
  | subRRm
  | subAlImm8
  | subEaxImm
  | subRm8Imm8
  | subRmImm
  | subRmImm8
  | xorRm8R8
  | xorRmR
  | xorR8Rm8
  | xorRRm
  | xorAlImm8
  | xorEaxImm
  | xorRm8Imm8
  | xorRmImm
  | xorRmImm8
  | cmpRm8R8
  | cmpRmR
  | cmpR8Rm8
  | cmpRRm
  | cmpAlImm8
  | cmpEaxImm
  | cmpRm8Imm8
  | cmpRmImm
  | cmpRmImm8
  | incR
  | decR
  | incRm8
  | decRm8
  | incRm
  | decRm
  | testRm8Imm8
  | notRm8
  | negRm8
  | mulRm8
  | imulRm8
  | divRm8
  | idivRm8
  | testRmImm
  | notRm
  | negRm
  | mulRm
  | imulRm
  | divRm
  | idivRm
  | imulRRm
  | imulRRmImm
  | imulRRmImm8
  | testRm8R8
  | testRmR
  | testAlImm8
  | testEaxImm
  | movRm8R8
  | movRmR
  | movR8Rm8
  | movRRm
  | movR8Imm8
  | movRImm
  | movRm8Imm8
  | movRmImm
  | movAlMoffs
  | movEaxMoffs
  | movMoffsAl
  | movMoffsEax
  | leaRM
  | movzxRRm8
  | movzxRRm16
  | movsxRRm8
  | movsxRRm16
  | cbw
  | cwde
  | cwd
  | cdq
  | cmpsb
  | cmpsw
  | cmpsd
  | clc
  | stc
  | cmc
  | cld
  | std
  | aamImm8
  | aadImm8
  | rolRm8Imm8
  | rolRmImm8
  | rolRm8One
  | rolRmOne
  | rolRm8Cl
  | rolRmCl
  | rorRm8Imm8
  | rorRmImm8
  | rorRm8One
  | rorRmOne
  | rorRm8Cl
  | rorRmCl
  | rclRm8Imm8
  | rclRmImm8
  | rclRm8One
  | rclRmOne
  | rclRm8Cl
  | rclRmCl
  | rcrRm8Imm8
  | rcrRmImm8
  | rcrRm8One
  | rcrRmOne
  | rcrRm8Cl
  | rcrRmCl
  | shlRm8Imm8
  | shlRmImm8
  | shlRm8One
  | shlRmOne
  | shlRm8Cl
  | shlRmCl
  | shrRm8Imm8
  | shrRmImm8
  | shrRm8One
  | shrRmOne
  | shrRm8Cl
  | shrRmCl
  | sarRm8Imm8
  | sarRmImm8
  | sarRm8One
  | sarRmOne
  | sarRm8Cl
  | sarRmCl
  | callRel32
  | callRm32
  | ret
  | retImm16
  | jmpRel8
  | jmpRel32
  | jmpRm32
  | joRel8
  | joRel32
  | jnoRel8
  | jnoRel32
  | jbRel8
  | jbRel32
  | jaeRel8
  | jaeRel32
  | jeRel8
  | jeRel32
  | jneRel8
  | jneRel32
  | jbeRel8
  | jbeRel32
  | jaRel8
  | jaRel32
  | jsRel8
  | jsRel32
  | jnsRel8
  | jnsRel32
  | jpRel8
  | jpRel32
  | jnpRel8
  | jnpRel32
  | jlRel8
  | jlRel32
  | jgeRel8
  | jgeRel32
  | jleRel8
  | jleRel32
  | jgRel8
  | jgRel32
  | cmovoRRm
  | cmovnoRRm
  | cmovbRRm
  | cmovaeRRm
  | cmoveRRm
  | cmovneRRm
  | cmovbeRRm
  | cmovaRRm
  | cmovsRRm
  | cmovnsRRm
  | cmovpRRm
  | cmovnpRRm
  | cmovlRRm
  | cmovgeRRm
  | cmovleRRm
  | cmovgRRm
  | bsfRRm
  | bsrRRm
  | bswapR32
  | btRmR
  | btRmImm8
  | btsRmR
  | btsRmImm8
  | btrRmR
  | btrRmImm8
  | btcRmR
  | btcRmImm8
deriving DecidableEq, Repr

end Sys2Proof
end

