-- ==== Sys2Proof/Config.lean ====
section
/-! DEFINITION. What an implementation fixes and the spec leaves open: the parameters of 00_scope.md R11 to R14 and the free
values of 93_implementation_defined.md U1 to U6. -/

namespace Sys2Proof

/-- The parameters of the step that are numbers and switches (00_scope.md R11, R12, R14). -/
structure Config where
  /-- R11 `PAGE_SIZE`: the granule of `mmap` -/
  pageSize : Nat
  /-- R12 `ADMIT_TIER_G`: whether rows of tier G are admitted -/
  admitTierG : Bool
  /-- R14 `MAX_INSN_LEN`: the longest instruction the decoder accepts, in bytes -/
  maxInsnLen : Nat
deriving DecidableEq, Repr

/-- The defaults R11, R12 and R14 state (log entry 4). -/
def Config.std : Config := { pageSize := 4096, admitTierG := true, maxInsnLen := 15 }

/-- The key of the draw `UNDEF` (R13): the mnemonic, the operand width, the flag, the operand values and the flags before the
instruction. Log entry 5 says which operand values an instruction gives. -/
structure UndefKey where
  mnemonic : Mnemonic
  width : Option Width
  flag : Flag
  operands : List Nat
  flags : Flags
deriving DecidableEq, Repr

/-- `UNDEF` (R13): "a total function the model assumes nothing of". It has no body: nothing can be proved of its values. -/
opaque Config.undef : UndefKey → Bool

/-- What a byte of memory that is not listed holds. DESIGN CHOICE (log entry 2): the spec fixes no value (20_memory.md R78). -/
def Config.unlistedByte : Byte := 0#8

end Sys2Proof
end

