-- ==== Sys2Proof/Machine/Encoding.lean ====
section
/-! DEFINITION. The encoding tables: register and scale numbers (10_state.md R31, R32; 30_encoding.md R111), prefix bytes (R102),
the 238 rows of spec/opcode_table.json as data (R108, R115 to R120), and the parts of an instruction (its row, its prefixes,
its raw operand fields). -/

namespace Sys2Proof

/-- The encoding number of a cell (10_state.md R31). -/
def Reg.num : Reg → BitVec 3
  | .eax => 0#3
  | .ecx => 1#3
  | .edx => 2#3
  | .ebx => 3#3
  | .esp => 4#3
  | .ebp => 5#3
  | .esi => 6#3
  | .edi => 7#3

/-- The cell with an encoding number (10_state.md R31). -/
def Reg.ofNum (k : BitVec 3) : Reg :=
  if k = 0#3 then .eax else if k = 1#3 then .ecx else if k = 2#3 then .edx else if k = 3#3 then .ebx
  else if k = 4#3 then .esp else if k = 5#3 then .ebp else if k = 6#3 then .esi else .edi

/-- The encoding number of an 8-bit register operand (10_state.md R32). -/
def Reg8.num : Reg8 → BitVec 3
  | .al => 0#3
  | .cl => 1#3
  | .dl => 2#3
  | .bl => 3#3
  | .ah => 4#3
  | .ch => 5#3
  | .dh => 6#3
  | .bh => 7#3

/-- The 8-bit register operand with an encoding number (10_state.md R32). -/
def Reg8.ofNum (k : BitVec 3) : Reg8 :=
  if k = 0#3 then .al else if k = 1#3 then .cl else if k = 2#3 then .dl else if k = 3#3 then .bl
  else if k = 4#3 then .ah else if k = 5#3 then .ch else if k = 6#3 then .dh else .bh

/-- The SIB field `ss` of a scale (30_encoding.md R111). -/
def Scale.num : Scale → BitVec 2
  | .x1 => 0#2
  | .x2 => 1#2
  | .x4 => 2#2
  | .x8 => 3#2

/-- The scale of a SIB field `ss` (30_encoding.md R111). -/
def Scale.ofNum (k : BitVec 2) : Scale :=
  if k = 0#2 then .x1 else if k = 1#2 then .x2 else if k = 2#2 then .x4 else .x8

/-- The factor 2^ss (30_encoding.md R111). -/
def Scale.factor : Scale → Word
  | .x1 => 1#32
  | .x2 => 2#32
  | .x4 => 4#32
  | .x8 => 8#32

/-- The condition-code nibble (30_encoding.md R121). -/
def Cond.num : Cond → BitVec 4
  | .O => 0x0#4
  | .NO => 0x1#4
  | .B => 0x2#4
  | .AE => 0x3#4
  | .E => 0x4#4
  | .NE => 0x5#4
  | .BE => 0x6#4
  | .A => 0x7#4
  | .S => 0x8#4
  | .NS => 0x9#4
  | .P => 0xA#4
  | .NP => 0xB#4
  | .L => 0xC#4
  | .GE => 0xD#4
  | .LE => 0xE#4
  | .G => 0xF#4

/-- The byte of a prefix (30_encoding.md R102). -/
def Prefix.byte : Prefix → Byte
  | .opsize => 0x66#8
  | .lock => 0xF0#8
  | .seg .es => 0x26#8
  | .seg .cs => 0x2E#8
  | .seg .ss => 0x36#8
  | .seg .ds => 0x3E#8

/-- The prefix a byte stands for, where it is one that is accepted (R103 to R105). -/
def prefixOf (b : Byte) : Option Prefix :=
  if b = 0x66#8 then some .opsize
  else if b = 0xF0#8 then some .lock
  else if b = 0x26#8 then some (.seg .es)
  else if b = 0x2E#8 then some (.seg .cs)
  else if b = 0x36#8 then some (.seg .ss)
  else if b = 0x3E#8 then some (.seg .ds)
  else none

/-- The prefix bytes that are refused as they are read: FS, GS (R104), `67`, `F2`, `F3` (R106). -/
def refusedPrefix (b : Byte) : Bool :=
  b == 0x64#8 || b == 0x65#8 || b == 0x67#8 || b == 0xF2#8 || b == 0xF3#8

/-- Two prefixes that may not stand in one instruction: equal bytes, or two segment overrides (R107). -/
def Prefix.clash : Prefix → Prefix → Bool
  | .opsize, .opsize => true
  | .lock, .lock => true
  | .seg _, .seg _ => true
  | _, _ => false

/-- The operand width of a row whose `opsize` is `v` (R103). -/
def opWidth (p : Prefixes) : Width := if p.contains .opsize then .w16 else .w32

/-- The operand formats (R115). -/
inductive Format
  | MR
  | RM
  | MI
  | M
  | M1
  | MC
  | I
  | O
  | OI
  | RMI
  | D
  | FD
  | TD
  | IB
  | IW
  | ZO
deriving DecidableEq, Repr

/-- Whether a row has a ModR/M byte, and what its `reg` field is (R109). -/
inductive Modrm
  | none
  | slashR
  | digit (d : BitVec 3)
deriving DecidableEq, Repr

/-- The immediate of a row (R113). -/
inductive ImmKind
  | none
  | ib
  | iw
  | iz
  | cb
  | cd
  | moffs
deriving DecidableEq, Repr

/-- The field `opsize` of a row (R116). -/
inductive OpSize
  | none
  | s8
  | s16
  | s32
  | v
deriving DecidableEq, Repr

/-- What a row says of the prefix `66` (R103). -/
inductive Prefix66
  | forbidden
  | v
  | required
deriving DecidableEq, Repr

/-- The tiers of 00_scope.md R6. -/
inductive Tier
  | S
  | G
deriving DecidableEq, Repr

/-- One row of spec/opcode_table.json: `match` and `mask` as an escape flag, the opcode byte's value and mask, and the ModR/M
digit (R108). -/
structure Row where
  mnemonic : Mnemonic
  format : Format
  escape : Bool
  code : Byte
  mask : Byte
  modrm : Modrm
  imm : ImmKind
  opsize : OpSize
  prefix66 : Prefix66
  lock : Bool
  memOnly : Bool
  srcWidth : Option Width
  tier : Tier
deriving DecidableEq, Repr

/-- A row that takes a data operand of width 8, 16 or 32 and any `mod` (the common case). -/
def dataRow (mn : Mnemonic) (f : Format) (esc : Bool) (code mask : Byte) (m : Modrm) (i : ImmKind) (o : OpSize) (lock : Bool)
    (t : Tier) : Row :=
  { mnemonic := mn, format := f, escape := esc, code := code, mask := mask, modrm := m, imm := i, opsize := o,
    prefix66 := if o = .v then .v else .forbidden, lock := lock, memOnly := false, srcWidth := none, tier := t }

/-- The rows of spec/opcode_table.json. -/
def Form.row : Form → Row
  | .addRm8R8 => dataRow .ADD .MR false 0x00#8 0xFF#8 .slashR .none .s8 true .S
  | .addRmR => dataRow .ADD .MR false 0x01#8 0xFF#8 .slashR .none .v true .S
  | .addR8Rm8 => dataRow .ADD .RM false 0x02#8 0xFF#8 .slashR .none .s8 false .S
  | .addRRm => dataRow .ADD .RM false 0x03#8 0xFF#8 .slashR .none .v false .S
  | .addAlImm8 => dataRow .ADD .I false 0x04#8 0xFF#8 .none .ib .s8 false .S
  | .addEaxImm => dataRow .ADD .I false 0x05#8 0xFF#8 .none .iz .v false .S
  | .addRm8Imm8 => dataRow .ADD .MI false 0x80#8 0xFF#8 (.digit 0#3) .ib .s8 true .S
  | .addRmImm => dataRow .ADD .MI false 0x81#8 0xFF#8 (.digit 0#3) .iz .v true .S
  | .addRmImm8 => dataRow .ADD .MI false 0x83#8 0xFF#8 (.digit 0#3) .ib .v true .S
  | .orRm8R8 => dataRow .OR .MR false 0x08#8 0xFF#8 .slashR .none .s8 true .S
  | .orRmR => dataRow .OR .MR false 0x09#8 0xFF#8 .slashR .none .v true .S
  | .orR8Rm8 => dataRow .OR .RM false 0x0A#8 0xFF#8 .slashR .none .s8 false .S
  | .orRRm => dataRow .OR .RM false 0x0B#8 0xFF#8 .slashR .none .v false .S
  | .orAlImm8 => dataRow .OR .I false 0x0C#8 0xFF#8 .none .ib .s8 false .S
  | .orEaxImm => dataRow .OR .I false 0x0D#8 0xFF#8 .none .iz .v false .S
  | .orRm8Imm8 => dataRow .OR .MI false 0x80#8 0xFF#8 (.digit 1#3) .ib .s8 true .S
  | .orRmImm => dataRow .OR .MI false 0x81#8 0xFF#8 (.digit 1#3) .iz .v true .S
  | .orRmImm8 => dataRow .OR .MI false 0x83#8 0xFF#8 (.digit 1#3) .ib .v true .S
  | .adcRm8R8 => dataRow .ADC .MR false 0x10#8 0xFF#8 .slashR .none .s8 true .G
  | .adcRmR => dataRow .ADC .MR false 0x11#8 0xFF#8 .slashR .none .v true .G
  | .adcR8Rm8 => dataRow .ADC .RM false 0x12#8 0xFF#8 .slashR .none .s8 false .G
  | .adcRRm => dataRow .ADC .RM false 0x13#8 0xFF#8 .slashR .none .v false .G
  | .adcAlImm8 => dataRow .ADC .I false 0x14#8 0xFF#8 .none .ib .s8 false .G
  | .adcEaxImm => dataRow .ADC .I false 0x15#8 0xFF#8 .none .iz .v false .G
  | .adcRm8Imm8 => dataRow .ADC .MI false 0x80#8 0xFF#8 (.digit 2#3) .ib .s8 true .G
  | .adcRmImm => dataRow .ADC .MI false 0x81#8 0xFF#8 (.digit 2#3) .iz .v true .G
  | .adcRmImm8 => dataRow .ADC .MI false 0x83#8 0xFF#8 (.digit 2#3) .ib .v true .G
  | .sbbRm8R8 => dataRow .SBB .MR false 0x18#8 0xFF#8 .slashR .none .s8 true .G
  | .sbbRmR => dataRow .SBB .MR false 0x19#8 0xFF#8 .slashR .none .v true .G
  | .sbbR8Rm8 => dataRow .SBB .RM false 0x1A#8 0xFF#8 .slashR .none .s8 false .G
  | .sbbRRm => dataRow .SBB .RM false 0x1B#8 0xFF#8 .slashR .none .v false .G
  | .sbbAlImm8 => dataRow .SBB .I false 0x1C#8 0xFF#8 .none .ib .s8 false .G
  | .sbbEaxImm => dataRow .SBB .I false 0x1D#8 0xFF#8 .none .iz .v false .G
  | .sbbRm8Imm8 => dataRow .SBB .MI false 0x80#8 0xFF#8 (.digit 3#3) .ib .s8 true .G
  | .sbbRmImm => dataRow .SBB .MI false 0x81#8 0xFF#8 (.digit 3#3) .iz .v true .G
  | .sbbRmImm8 => dataRow .SBB .MI false 0x83#8 0xFF#8 (.digit 3#3) .ib .v true .G
  | .andRm8R8 => dataRow .AND .MR false 0x20#8 0xFF#8 .slashR .none .s8 true .S
  | .andRmR => dataRow .AND .MR false 0x21#8 0xFF#8 .slashR .none .v true .S
  | .andR8Rm8 => dataRow .AND .RM false 0x22#8 0xFF#8 .slashR .none .s8 false .S
  | .andRRm => dataRow .AND .RM false 0x23#8 0xFF#8 .slashR .none .v false .S
  | .andAlImm8 => dataRow .AND .I false 0x24#8 0xFF#8 .none .ib .s8 false .S
  | .andEaxImm => dataRow .AND .I false 0x25#8 0xFF#8 .none .iz .v false .S
  | .andRm8Imm8 => dataRow .AND .MI false 0x80#8 0xFF#8 (.digit 4#3) .ib .s8 true .S
  | .andRmImm => dataRow .AND .MI false 0x81#8 0xFF#8 (.digit 4#3) .iz .v true .S
  | .andRmImm8 => dataRow .AND .MI false 0x83#8 0xFF#8 (.digit 4#3) .ib .v true .S
  | .subRm8R8 => dataRow .SUB .MR false 0x28#8 0xFF#8 .slashR .none .s8 true .S
  | .subRmR => dataRow .SUB .MR false 0x29#8 0xFF#8 .slashR .none .v true .S
  | .subR8Rm8 => dataRow .SUB .RM false 0x2A#8 0xFF#8 .slashR .none .s8 false .S
  | .subRRm => dataRow .SUB .RM false 0x2B#8 0xFF#8 .slashR .none .v false .S
  | .subAlImm8 => dataRow .SUB .I false 0x2C#8 0xFF#8 .none .ib .s8 false .S
  | .subEaxImm => dataRow .SUB .I false 0x2D#8 0xFF#8 .none .iz .v false .S
  | .subRm8Imm8 => dataRow .SUB .MI false 0x80#8 0xFF#8 (.digit 5#3) .ib .s8 true .S
  | .subRmImm => dataRow .SUB .MI false 0x81#8 0xFF#8 (.digit 5#3) .iz .v true .S
  | .subRmImm8 => dataRow .SUB .MI false 0x83#8 0xFF#8 (.digit 5#3) .ib .v true .S
  | .xorRm8R8 => dataRow .XOR .MR false 0x30#8 0xFF#8 .slashR .none .s8 true .S
  | .xorRmR => dataRow .XOR .MR false 0x31#8 0xFF#8 .slashR .none .v true .S
  | .xorR8Rm8 => dataRow .XOR .RM false 0x32#8 0xFF#8 .slashR .none .s8 false .S
  | .xorRRm => dataRow .XOR .RM false 0x33#8 0xFF#8 .slashR .none .v false .S
  | .xorAlImm8 => dataRow .XOR .I false 0x34#8 0xFF#8 .none .ib .s8 false .S
  | .xorEaxImm => dataRow .XOR .I false 0x35#8 0xFF#8 .none .iz .v false .S
  | .xorRm8Imm8 => dataRow .XOR .MI false 0x80#8 0xFF#8 (.digit 6#3) .ib .s8 true .S
  | .xorRmImm => dataRow .XOR .MI false 0x81#8 0xFF#8 (.digit 6#3) .iz .v true .S
  | .xorRmImm8 => dataRow .XOR .MI false 0x83#8 0xFF#8 (.digit 6#3) .ib .v true .S
  | .cmpRm8R8 => dataRow .CMP .MR false 0x38#8 0xFF#8 .slashR .none .s8 false .S
  | .cmpRmR => dataRow .CMP .MR false 0x39#8 0xFF#8 .slashR .none .v false .S
  | .cmpR8Rm8 => dataRow .CMP .RM false 0x3A#8 0xFF#8 .slashR .none .s8 false .S
  | .cmpRRm => dataRow .CMP .RM false 0x3B#8 0xFF#8 .slashR .none .v false .S
  | .cmpAlImm8 => dataRow .CMP .I false 0x3C#8 0xFF#8 .none .ib .s8 false .S
  | .cmpEaxImm => dataRow .CMP .I false 0x3D#8 0xFF#8 .none .iz .v false .S
  | .cmpRm8Imm8 => dataRow .CMP .MI false 0x80#8 0xFF#8 (.digit 7#3) .ib .s8 false .S
  | .cmpRmImm => dataRow .CMP .MI false 0x81#8 0xFF#8 (.digit 7#3) .iz .v false .S
  | .cmpRmImm8 => dataRow .CMP .MI false 0x83#8 0xFF#8 (.digit 7#3) .ib .v false .S
  | .incR => dataRow .INC .O false 0x40#8 0xF8#8 .none .none .v false .S
  | .decR => dataRow .DEC .O false 0x48#8 0xF8#8 .none .none .v false .S
  | .incRm8 => dataRow .INC .M false 0xFE#8 0xFF#8 (.digit 0#3) .none .s8 true .S
  | .decRm8 => dataRow .DEC .M false 0xFE#8 0xFF#8 (.digit 1#3) .none .s8 true .S
  | .incRm => dataRow .INC .M false 0xFF#8 0xFF#8 (.digit 0#3) .none .v true .S
  | .decRm => dataRow .DEC .M false 0xFF#8 0xFF#8 (.digit 1#3) .none .v true .S
  | .testRm8Imm8 => dataRow .TEST .MI false 0xF6#8 0xFF#8 (.digit 0#3) .ib .s8 false .G
  | .notRm8 => dataRow .NOT .M false 0xF6#8 0xFF#8 (.digit 2#3) .none .s8 true .G
  | .negRm8 => dataRow .NEG .M false 0xF6#8 0xFF#8 (.digit 3#3) .none .s8 true .G
  | .mulRm8 => dataRow .MUL .M false 0xF6#8 0xFF#8 (.digit 4#3) .none .s8 false .G
  | .imulRm8 => dataRow .IMUL .M false 0xF6#8 0xFF#8 (.digit 5#3) .none .s8 false .G
  | .divRm8 => dataRow .DIV .M false 0xF6#8 0xFF#8 (.digit 6#3) .none .s8 false .G
  | .idivRm8 => dataRow .IDIV .M false 0xF6#8 0xFF#8 (.digit 7#3) .none .s8 false .G
  | .testRmImm => dataRow .TEST .MI false 0xF7#8 0xFF#8 (.digit 0#3) .iz .v false .G
  | .notRm => dataRow .NOT .M false 0xF7#8 0xFF#8 (.digit 2#3) .none .v true .G
  | .negRm => dataRow .NEG .M false 0xF7#8 0xFF#8 (.digit 3#3) .none .v true .G
  | .mulRm => dataRow .MUL .M false 0xF7#8 0xFF#8 (.digit 4#3) .none .v false .G
  | .imulRm => dataRow .IMUL .M false 0xF7#8 0xFF#8 (.digit 5#3) .none .v false .G
  | .divRm => dataRow .DIV .M false 0xF7#8 0xFF#8 (.digit 6#3) .none .v false .G
  | .idivRm => dataRow .IDIV .M false 0xF7#8 0xFF#8 (.digit 7#3) .none .v false .G
  | .imulRRm => dataRow .IMUL .RM true 0xAF#8 0xFF#8 .slashR .none .v false .G
  | .imulRRmImm => dataRow .IMUL .RMI false 0x69#8 0xFF#8 .slashR .iz .v false .G
  | .imulRRmImm8 => dataRow .IMUL .RMI false 0x6B#8 0xFF#8 .slashR .ib .v false .G
  | .testRm8R8 => dataRow .TEST .MR false 0x84#8 0xFF#8 .slashR .none .s8 false .G
  | .testRmR => dataRow .TEST .MR false 0x85#8 0xFF#8 .slashR .none .v false .G
  | .testAlImm8 => dataRow .TEST .I false 0xA8#8 0xFF#8 .none .ib .s8 false .G
  | .testEaxImm => dataRow .TEST .I false 0xA9#8 0xFF#8 .none .iz .v false .G
  | .movRm8R8 => dataRow .MOV .MR false 0x88#8 0xFF#8 .slashR .none .s8 false .G
  | .movRmR => dataRow .MOV .MR false 0x89#8 0xFF#8 .slashR .none .v false .G
  | .movR8Rm8 => dataRow .MOV .RM false 0x8A#8 0xFF#8 .slashR .none .s8 false .G
  | .movRRm => dataRow .MOV .RM false 0x8B#8 0xFF#8 .slashR .none .v false .G
  | .movR8Imm8 => dataRow .MOV .OI false 0xB0#8 0xF8#8 .none .ib .s8 false .G
  | .movRImm => dataRow .MOV .OI false 0xB8#8 0xF8#8 .none .iz .v false .G
  | .movRm8Imm8 => dataRow .MOV .MI false 0xC6#8 0xFF#8 (.digit 0#3) .ib .s8 false .G
  | .movRmImm => dataRow .MOV .MI false 0xC7#8 0xFF#8 (.digit 0#3) .iz .v false .G
  | .movAlMoffs => dataRow .MOV .FD false 0xA0#8 0xFF#8 .none .moffs .s8 false .G
  | .movEaxMoffs => dataRow .MOV .FD false 0xA1#8 0xFF#8 .none .moffs .v false .G
  | .movMoffsAl => dataRow .MOV .TD false 0xA2#8 0xFF#8 .none .moffs .s8 false .G
  | .movMoffsEax => dataRow .MOV .TD false 0xA3#8 0xFF#8 .none .moffs .v false .G
  | .leaRM => { dataRow .LEA .RM false 0x8D#8 0xFF#8 .slashR .none .v false .G with memOnly := true }
  | .movzxRRm8 => { dataRow .MOVZX .RM true 0xB6#8 0xFF#8 .slashR .none .v false .G with srcWidth := some .w8 }
  | .movzxRRm16 => { dataRow .MOVZX .RM true 0xB7#8 0xFF#8 .slashR .none .v false .G with srcWidth := some .w16 }
  | .movsxRRm8 => { dataRow .MOVSX .RM true 0xBE#8 0xFF#8 .slashR .none .v false .G with srcWidth := some .w8 }
  | .movsxRRm16 => { dataRow .MOVSX .RM true 0xBF#8 0xFF#8 .slashR .none .v false .G with srcWidth := some .w16 }
  | .cbw => { dataRow .CBW .ZO false 0x98#8 0xFF#8 .none .none .s16 false .S with prefix66 := .required }
  | .cwde => dataRow .CWDE .ZO false 0x98#8 0xFF#8 .none .none .s32 false .S
  | .cwd => { dataRow .CWD .ZO false 0x99#8 0xFF#8 .none .none .s16 false .G with prefix66 := .required }
  | .cdq => dataRow .CDQ .ZO false 0x99#8 0xFF#8 .none .none .s32 false .S
  | .cmpsb => dataRow .CMPSB .ZO false 0xA6#8 0xFF#8 .none .none .s8 false .S
  | .cmpsw => { dataRow .CMPSW .ZO false 0xA7#8 0xFF#8 .none .none .s16 false .S with prefix66 := .required }
  | .cmpsd => dataRow .CMPSD .ZO false 0xA7#8 0xFF#8 .none .none .s32 false .S
  | .clc => dataRow .CLC .ZO false 0xF8#8 0xFF#8 .none .none .none false .S
  | .stc => dataRow .STC .ZO false 0xF9#8 0xFF#8 .none .none .none false .S
  | .cmc => dataRow .CMC .ZO false 0xF5#8 0xFF#8 .none .none .none false .G
  | .cld => dataRow .CLD .ZO false 0xFC#8 0xFF#8 .none .none .none false .S
  | .std => dataRow .STD .ZO false 0xFD#8 0xFF#8 .none .none .none false .S
  | .aamImm8 => dataRow .AAM .IB false 0xD4#8 0xFF#8 .none .ib .none false .S
  | .aadImm8 => dataRow .AAD .IB false 0xD5#8 0xFF#8 .none .ib .none false .S
  | .rolRm8Imm8 => dataRow .ROL .MI false 0xC0#8 0xFF#8 (.digit 0#3) .ib .s8 false .G
  | .rolRmImm8 => dataRow .ROL .MI false 0xC1#8 0xFF#8 (.digit 0#3) .ib .v false .G
  | .rolRm8One => dataRow .ROL .M1 false 0xD0#8 0xFF#8 (.digit 0#3) .none .s8 false .G
  | .rolRmOne => dataRow .ROL .M1 false 0xD1#8 0xFF#8 (.digit 0#3) .none .v false .G
  | .rolRm8Cl => dataRow .ROL .MC false 0xD2#8 0xFF#8 (.digit 0#3) .none .s8 false .G
  | .rolRmCl => dataRow .ROL .MC false 0xD3#8 0xFF#8 (.digit 0#3) .none .v false .G
  | .rorRm8Imm8 => dataRow .ROR .MI false 0xC0#8 0xFF#8 (.digit 1#3) .ib .s8 false .G
  | .rorRmImm8 => dataRow .ROR .MI false 0xC1#8 0xFF#8 (.digit 1#3) .ib .v false .G
  | .rorRm8One => dataRow .ROR .M1 false 0xD0#8 0xFF#8 (.digit 1#3) .none .s8 false .G
  | .rorRmOne => dataRow .ROR .M1 false 0xD1#8 0xFF#8 (.digit 1#3) .none .v false .G
  | .rorRm8Cl => dataRow .ROR .MC false 0xD2#8 0xFF#8 (.digit 1#3) .none .s8 false .G
  | .rorRmCl => dataRow .ROR .MC false 0xD3#8 0xFF#8 (.digit 1#3) .none .v false .G
  | .rclRm8Imm8 => dataRow .RCL .MI false 0xC0#8 0xFF#8 (.digit 2#3) .ib .s8 false .G
  | .rclRmImm8 => dataRow .RCL .MI false 0xC1#8 0xFF#8 (.digit 2#3) .ib .v false .G
  | .rclRm8One => dataRow .RCL .M1 false 0xD0#8 0xFF#8 (.digit 2#3) .none .s8 false .G
  | .rclRmOne => dataRow .RCL .M1 false 0xD1#8 0xFF#8 (.digit 2#3) .none .v false .G
  | .rclRm8Cl => dataRow .RCL .MC false 0xD2#8 0xFF#8 (.digit 2#3) .none .s8 false .G
  | .rclRmCl => dataRow .RCL .MC false 0xD3#8 0xFF#8 (.digit 2#3) .none .v false .G
  | .rcrRm8Imm8 => dataRow .RCR .MI false 0xC0#8 0xFF#8 (.digit 3#3) .ib .s8 false .G
  | .rcrRmImm8 => dataRow .RCR .MI false 0xC1#8 0xFF#8 (.digit 3#3) .ib .v false .G
  | .rcrRm8One => dataRow .RCR .M1 false 0xD0#8 0xFF#8 (.digit 3#3) .none .s8 false .G
  | .rcrRmOne => dataRow .RCR .M1 false 0xD1#8 0xFF#8 (.digit 3#3) .none .v false .G
  | .rcrRm8Cl => dataRow .RCR .MC false 0xD2#8 0xFF#8 (.digit 3#3) .none .s8 false .G
  | .rcrRmCl => dataRow .RCR .MC false 0xD3#8 0xFF#8 (.digit 3#3) .none .v false .G
  | .shlRm8Imm8 => dataRow .SHL .MI false 0xC0#8 0xFF#8 (.digit 4#3) .ib .s8 false .G
  | .shlRmImm8 => dataRow .SHL .MI false 0xC1#8 0xFF#8 (.digit 4#3) .ib .v false .G
  | .shlRm8One => dataRow .SHL .M1 false 0xD0#8 0xFF#8 (.digit 4#3) .none .s8 false .G
  | .shlRmOne => dataRow .SHL .M1 false 0xD1#8 0xFF#8 (.digit 4#3) .none .v false .G
  | .shlRm8Cl => dataRow .SHL .MC false 0xD2#8 0xFF#8 (.digit 4#3) .none .s8 false .G
  | .shlRmCl => dataRow .SHL .MC false 0xD3#8 0xFF#8 (.digit 4#3) .none .v false .G
  | .shrRm8Imm8 => dataRow .SHR .MI false 0xC0#8 0xFF#8 (.digit 5#3) .ib .s8 false .G
  | .shrRmImm8 => dataRow .SHR .MI false 0xC1#8 0xFF#8 (.digit 5#3) .ib .v false .G
  | .shrRm8One => dataRow .SHR .M1 false 0xD0#8 0xFF#8 (.digit 5#3) .none .s8 false .G
  | .shrRmOne => dataRow .SHR .M1 false 0xD1#8 0xFF#8 (.digit 5#3) .none .v false .G
  | .shrRm8Cl => dataRow .SHR .MC false 0xD2#8 0xFF#8 (.digit 5#3) .none .s8 false .G
  | .shrRmCl => dataRow .SHR .MC false 0xD3#8 0xFF#8 (.digit 5#3) .none .v false .G
  | .sarRm8Imm8 => dataRow .SAR .MI false 0xC0#8 0xFF#8 (.digit 7#3) .ib .s8 false .G
  | .sarRmImm8 => dataRow .SAR .MI false 0xC1#8 0xFF#8 (.digit 7#3) .ib .v false .G
  | .sarRm8One => dataRow .SAR .M1 false 0xD0#8 0xFF#8 (.digit 7#3) .none .s8 false .G
  | .sarRmOne => dataRow .SAR .M1 false 0xD1#8 0xFF#8 (.digit 7#3) .none .v false .G
  | .sarRm8Cl => dataRow .SAR .MC false 0xD2#8 0xFF#8 (.digit 7#3) .none .s8 false .G
  | .sarRmCl => dataRow .SAR .MC false 0xD3#8 0xFF#8 (.digit 7#3) .none .v false .G
  | .callRel32 => dataRow .CALL .D false 0xE8#8 0xFF#8 .none .cd .none false .S
  | .callRm32 => dataRow .CALL .M false 0xFF#8 0xFF#8 (.digit 2#3) .none .s32 false .S
  | .ret => dataRow .RET .ZO false 0xC3#8 0xFF#8 .none .none .none false .G
  | .retImm16 => dataRow .RET .IW false 0xC2#8 0xFF#8 .none .iw .none false .G
  | .jmpRel8 => dataRow .JMP .D false 0xEB#8 0xFF#8 .none .cb .none false .G
  | .jmpRel32 => dataRow .JMP .D false 0xE9#8 0xFF#8 .none .cd .none false .G
  | .jmpRm32 => dataRow .JMP .M false 0xFF#8 0xFF#8 (.digit 4#3) .none .s32 false .G
  | .joRel8 => dataRow .JO .D false 0x70#8 0xFF#8 .none .cb .none false .G
  | .joRel32 => dataRow .JO .D true 0x80#8 0xFF#8 .none .cd .none false .G
  | .jnoRel8 => dataRow .JNO .D false 0x71#8 0xFF#8 .none .cb .none false .G
  | .jnoRel32 => dataRow .JNO .D true 0x81#8 0xFF#8 .none .cd .none false .G
  | .jbRel8 => dataRow .JB .D false 0x72#8 0xFF#8 .none .cb .none false .G
  | .jbRel32 => dataRow .JB .D true 0x82#8 0xFF#8 .none .cd .none false .G
  | .jaeRel8 => dataRow .JAE .D false 0x73#8 0xFF#8 .none .cb .none false .G
  | .jaeRel32 => dataRow .JAE .D true 0x83#8 0xFF#8 .none .cd .none false .G
  | .jeRel8 => dataRow .JE .D false 0x74#8 0xFF#8 .none .cb .none false .G
  | .jeRel32 => dataRow .JE .D true 0x84#8 0xFF#8 .none .cd .none false .G
  | .jneRel8 => dataRow .JNE .D false 0x75#8 0xFF#8 .none .cb .none false .G
  | .jneRel32 => dataRow .JNE .D true 0x85#8 0xFF#8 .none .cd .none false .G
  | .jbeRel8 => dataRow .JBE .D false 0x76#8 0xFF#8 .none .cb .none false .G
  | .jbeRel32 => dataRow .JBE .D true 0x86#8 0xFF#8 .none .cd .none false .G
  | .jaRel8 => dataRow .JA .D false 0x77#8 0xFF#8 .none .cb .none false .G
  | .jaRel32 => dataRow .JA .D true 0x87#8 0xFF#8 .none .cd .none false .G
  | .jsRel8 => dataRow .JS .D false 0x78#8 0xFF#8 .none .cb .none false .G
  | .jsRel32 => dataRow .JS .D true 0x88#8 0xFF#8 .none .cd .none false .G
  | .jnsRel8 => dataRow .JNS .D false 0x79#8 0xFF#8 .none .cb .none false .G
  | .jnsRel32 => dataRow .JNS .D true 0x89#8 0xFF#8 .none .cd .none false .G
  | .jpRel8 => dataRow .JP .D false 0x7A#8 0xFF#8 .none .cb .none false .G
  | .jpRel32 => dataRow .JP .D true 0x8A#8 0xFF#8 .none .cd .none false .G
  | .jnpRel8 => dataRow .JNP .D false 0x7B#8 0xFF#8 .none .cb .none false .G
  | .jnpRel32 => dataRow .JNP .D true 0x8B#8 0xFF#8 .none .cd .none false .G
  | .jlRel8 => dataRow .JL .D false 0x7C#8 0xFF#8 .none .cb .none false .G
  | .jlRel32 => dataRow .JL .D true 0x8C#8 0xFF#8 .none .cd .none false .G
  | .jgeRel8 => dataRow .JGE .D false 0x7D#8 0xFF#8 .none .cb .none false .G
  | .jgeRel32 => dataRow .JGE .D true 0x8D#8 0xFF#8 .none .cd .none false .G
  | .jleRel8 => dataRow .JLE .D false 0x7E#8 0xFF#8 .none .cb .none false .G
  | .jleRel32 => dataRow .JLE .D true 0x8E#8 0xFF#8 .none .cd .none false .G
  | .jgRel8 => dataRow .JG .D false 0x7F#8 0xFF#8 .none .cb .none false .G
  | .jgRel32 => dataRow .JG .D true 0x8F#8 0xFF#8 .none .cd .none false .G
  | .cmovoRRm => dataRow .CMOVO .RM true 0x40#8 0xFF#8 .slashR .none .v false .S
  | .cmovnoRRm => dataRow .CMOVNO .RM true 0x41#8 0xFF#8 .slashR .none .v false .S
  | .cmovbRRm => dataRow .CMOVB .RM true 0x42#8 0xFF#8 .slashR .none .v false .S
  | .cmovaeRRm => dataRow .CMOVAE .RM true 0x43#8 0xFF#8 .slashR .none .v false .S
  | .cmoveRRm => dataRow .CMOVE .RM true 0x44#8 0xFF#8 .slashR .none .v false .S
  | .cmovneRRm => dataRow .CMOVNE .RM true 0x45#8 0xFF#8 .slashR .none .v false .S
  | .cmovbeRRm => dataRow .CMOVBE .RM true 0x46#8 0xFF#8 .slashR .none .v false .S
  | .cmovaRRm => dataRow .CMOVA .RM true 0x47#8 0xFF#8 .slashR .none .v false .S
  | .cmovsRRm => dataRow .CMOVS .RM true 0x48#8 0xFF#8 .slashR .none .v false .S
  | .cmovnsRRm => dataRow .CMOVNS .RM true 0x49#8 0xFF#8 .slashR .none .v false .S
  | .cmovpRRm => dataRow .CMOVP .RM true 0x4A#8 0xFF#8 .slashR .none .v false .S
  | .cmovnpRRm => dataRow .CMOVNP .RM true 0x4B#8 0xFF#8 .slashR .none .v false .S
  | .cmovlRRm => dataRow .CMOVL .RM true 0x4C#8 0xFF#8 .slashR .none .v false .S
  | .cmovgeRRm => dataRow .CMOVGE .RM true 0x4D#8 0xFF#8 .slashR .none .v false .S
  | .cmovleRRm => dataRow .CMOVLE .RM true 0x4E#8 0xFF#8 .slashR .none .v false .S
  | .cmovgRRm => dataRow .CMOVG .RM true 0x4F#8 0xFF#8 .slashR .none .v false .S
  | .bsfRRm => dataRow .BSF .RM true 0xBC#8 0xFF#8 .slashR .none .v false .S
  | .bsrRRm => dataRow .BSR .RM true 0xBD#8 0xFF#8 .slashR .none .v false .S
  | .bswapR32 => dataRow .BSWAP .O true 0xC8#8 0xF8#8 .none .none .s32 false .S
  | .btRmR => dataRow .BT .MR true 0xA3#8 0xFF#8 .slashR .none .v false .S
  | .btRmImm8 => dataRow .BT .MI true 0xBA#8 0xFF#8 (.digit 4#3) .ib .v false .S
  | .btsRmR => dataRow .BTS .MR true 0xAB#8 0xFF#8 .slashR .none .v true .S
  | .btsRmImm8 => dataRow .BTS .MI true 0xBA#8 0xFF#8 (.digit 5#3) .ib .v true .S
  | .btrRmR => dataRow .BTR .MR true 0xB3#8 0xFF#8 .slashR .none .v true .S
  | .btrRmImm8 => dataRow .BTR .MI true 0xBA#8 0xFF#8 (.digit 6#3) .ib .v true .S
  | .btcRmR => dataRow .BTC .MR true 0xBB#8 0xFF#8 .slashR .none .v true .S
  | .btcRmImm8 => dataRow .BTC .MI true 0xBA#8 0xFF#8 (.digit 7#3) .ib .v true .S

/-- The rows of the one-byte opcode map by the opcode's high four bits (R118). -/
def oneByteForms (hi : BitVec 4) : List Form :=
  if hi = 0x0#4 then
    [.addRm8R8, .addRmR, .addR8Rm8, .addRRm, .addAlImm8, .addEaxImm,
     .orRm8R8, .orRmR, .orR8Rm8, .orRRm, .orAlImm8, .orEaxImm]
  else if hi = 0x1#4 then
    [.adcRm8R8, .adcRmR, .adcR8Rm8, .adcRRm, .adcAlImm8, .adcEaxImm,
     .sbbRm8R8, .sbbRmR, .sbbR8Rm8, .sbbRRm, .sbbAlImm8, .sbbEaxImm]
  else if hi = 0x2#4 then
    [.andRm8R8, .andRmR, .andR8Rm8, .andRRm, .andAlImm8, .andEaxImm,
     .subRm8R8, .subRmR, .subR8Rm8, .subRRm, .subAlImm8, .subEaxImm]
  else if hi = 0x3#4 then
    [.xorRm8R8, .xorRmR, .xorR8Rm8, .xorRRm, .xorAlImm8, .xorEaxImm,
     .cmpRm8R8, .cmpRmR, .cmpR8Rm8, .cmpRRm, .cmpAlImm8, .cmpEaxImm]
  else if hi = 0x4#4 then
    [.incR, .decR]
  else if hi = 0x6#4 then
    [.imulRRmImm, .imulRRmImm8]
  else if hi = 0x7#4 then
    [.joRel8, .jnoRel8, .jbRel8, .jaeRel8, .jeRel8, .jneRel8,
     .jbeRel8, .jaRel8, .jsRel8, .jnsRel8, .jpRel8, .jnpRel8,
     .jlRel8, .jgeRel8, .jleRel8, .jgRel8]
  else if hi = 0x8#4 then
    [.addRm8Imm8, .addRmImm, .addRmImm8, .orRm8Imm8, .orRmImm, .orRmImm8,
     .adcRm8Imm8, .adcRmImm, .adcRmImm8, .sbbRm8Imm8, .sbbRmImm, .sbbRmImm8,
     .andRm8Imm8, .andRmImm, .andRmImm8, .subRm8Imm8, .subRmImm, .subRmImm8,
     .xorRm8Imm8, .xorRmImm, .xorRmImm8, .cmpRm8Imm8, .cmpRmImm, .cmpRmImm8,
     .testRm8R8, .testRmR, .movRm8R8, .movRmR, .movR8Rm8, .movRRm,
     .leaRM]
  else if hi = 0x9#4 then
    [.cbw, .cwde, .cwd, .cdq]
  else if hi = 0xA#4 then
    [.testAlImm8, .testEaxImm, .movAlMoffs, .movEaxMoffs, .movMoffsAl, .movMoffsEax,
     .cmpsb, .cmpsw, .cmpsd]
  else if hi = 0xB#4 then
    [.movR8Imm8, .movRImm]
  else if hi = 0xC#4 then
    [.movRm8Imm8, .movRmImm, .rolRm8Imm8, .rolRmImm8, .rorRm8Imm8, .rorRmImm8,
     .rclRm8Imm8, .rclRmImm8, .rcrRm8Imm8, .rcrRmImm8, .shlRm8Imm8, .shlRmImm8,
     .shrRm8Imm8, .shrRmImm8, .sarRm8Imm8, .sarRmImm8, .ret, .retImm16]
  else if hi = 0xD#4 then
    [.aamImm8, .aadImm8, .rolRm8One, .rolRmOne, .rolRm8Cl, .rolRmCl,
     .rorRm8One, .rorRmOne, .rorRm8Cl, .rorRmCl, .rclRm8One, .rclRmOne,
     .rclRm8Cl, .rclRmCl, .rcrRm8One, .rcrRmOne, .rcrRm8Cl, .rcrRmCl,
     .shlRm8One, .shlRmOne, .shlRm8Cl, .shlRmCl, .shrRm8One, .shrRmOne,
     .shrRm8Cl, .shrRmCl, .sarRm8One, .sarRmOne, .sarRm8Cl, .sarRmCl]
  else if hi = 0xE#4 then
    [.callRel32, .jmpRel8, .jmpRel32]
  else if hi = 0xF#4 then
    [.incRm8, .decRm8, .incRm, .decRm, .testRm8Imm8, .notRm8,
     .negRm8, .mulRm8, .imulRm8, .divRm8, .idivRm8, .testRmImm,
     .notRm, .negRm, .mulRm, .imulRm, .divRm, .idivRm,
     .clc, .stc, .cmc, .cld, .std, .callRm32,
     .jmpRm32]
  else []

/-- The rows of the two-byte opcode map by the high four bits of the byte after `0F` (R119). -/
def twoByteForms (hi : BitVec 4) : List Form :=
  if hi = 0x4#4 then
    [.cmovoRRm, .cmovnoRRm, .cmovbRRm, .cmovaeRRm, .cmoveRRm, .cmovneRRm,
     .cmovbeRRm, .cmovaRRm, .cmovsRRm, .cmovnsRRm, .cmovpRRm, .cmovnpRRm,
     .cmovlRRm, .cmovgeRRm, .cmovleRRm, .cmovgRRm]
  else if hi = 0x8#4 then
    [.joRel32, .jnoRel32, .jbRel32, .jaeRel32, .jeRel32, .jneRel32,
     .jbeRel32, .jaRel32, .jsRel32, .jnsRel32, .jpRel32, .jnpRel32,
     .jlRel32, .jgeRel32, .jleRel32, .jgRel32]
  else if hi = 0xA#4 then
    [.imulRRm, .btRmR, .btsRmR]
  else if hi = 0xB#4 then
    [.movzxRRm8, .movzxRRm16, .movsxRRm8, .movsxRRm16, .bsfRRm, .bsrRRm,
     .btRmImm8, .btsRmImm8, .btrRmR, .btrRmImm8, .btcRmR, .btcRmImm8]
  else if hi = 0xC#4 then
    [.bswapR32]
  else []

/-- Whether an opcode byte (after the escape byte `0F` or not) is one of the row's (R108). -/
def Row.hasOpcode (r : Row) (escape : Bool) (b : Byte) : Bool := r.escape == escape && (b &&& r.mask) == r.code

/-- The rows that have an opcode, in the table's order. -/
def formsAt (escape : Bool) (b : Byte) : List Form :=
  (if escape then twoByteForms (b.extractLsb' 4 4) else oneByteForms (b.extractLsb' 4 4)).filter
    fun f => f.row.hasOpcode escape b

/-- A row's operand width (R116). -/
def Row.width (r : Row) (p : Prefixes) : Option Width :=
  match r.opsize with
  | .none => none
  | .s8 => some .w8
  | .s16 => some .w16
  | .s32 => some .w32
  | .v => some (opWidth p)

/-- An immediate field as read: nothing, one, two or four bytes (R113). -/
inductive Imm
  | none
  | b (v : Byte)
  | w (v : BitVec 16)
  | d (v : Word)
deriving DecidableEq, Repr

/-- The raw operand fields: the register number of `reg` or of the opcode's low bits (0 where the row has neither),
the r/m operand, the immediate. -/
structure Raw where
  reg : BitVec 3
  rm : Option (RM (BitVec 3))
  imm : Imm
deriving DecidableEq, Repr

/-- An instruction taken apart: its row, its prefixes, its raw fields. -/
structure Parts where
  form : Form
  prefixes : Prefixes
  raw : Raw
deriving DecidableEq, Repr

/-- The r/m operand over another kind of register. -/
def RM.map {ρ σ : Type} (f : ρ → σ) : RM ρ → RM σ
  | .reg r => .reg (f r)
  | .mem m => .mem m

/-- The field of an `iz` immediate. -/
def ImmZ.imm : ImmZ → Imm
  | .i16 v => .w v
  | .i32 v => .d v

/-- Go on with the r/m operand. -/
def Raw.onRm (x : Raw) (k : RM (BitVec 3) → Option Instr) : Option Instr :=
  match x.rm with
  | some m => k m
  | none => none

/-- Go on with a memory r/m operand. -/
def Raw.onMem (x : Raw) (k : Mem → Option Instr) : Option Instr :=
  match x.rm with
  | some (.mem m) => k m
  | _ => none

/-- Go on with a one-byte immediate. -/
def Raw.onB (x : Raw) (k : Byte → Option Instr) : Option Instr :=
  match x.imm with
  | .b v => k v
  | _ => none

/-- Go on with a two-byte immediate. -/
def Raw.onW (x : Raw) (k : BitVec 16 → Option Instr) : Option Instr :=
  match x.imm with
  | .w v => k v
  | _ => none

/-- Go on with a four-byte immediate. -/
def Raw.onD (x : Raw) (k : Word → Option Instr) : Option Instr :=
  match x.imm with
  | .d v => k v
  | _ => none

/-- Go on with an `iz` immediate. -/
def Raw.onZ (x : Raw) (k : ImmZ → Option Instr) : Option Instr :=
  match x.imm with
  | .w v => k (.i16 v)
  | .d v => k (.i32 v)
  | _ => none

/-- The parts of an instruction. -/
def Instr.parts : Instr → Parts
  | .addRm8R8 p rm r => ⟨.addRm8R8, p, ⟨r.num, some (rm.map Reg8.num), .none⟩⟩
  | .addRmR p rm r => ⟨.addRmR, p, ⟨r.num, some (rm.map Reg.num), .none⟩⟩
  | .addR8Rm8 p r rm => ⟨.addR8Rm8, p, ⟨r.num, some (rm.map Reg8.num), .none⟩⟩
  | .addRRm p r rm => ⟨.addRRm, p, ⟨r.num, some (rm.map Reg.num), .none⟩⟩
  | .addAlImm8 p v => ⟨.addAlImm8, p, ⟨0#3, none, .b v⟩⟩
  | .addEaxImm p v => ⟨.addEaxImm, p, ⟨0#3, none, v.imm⟩⟩
  | .addRm8Imm8 p rm v => ⟨.addRm8Imm8, p, ⟨0#3, some (rm.map Reg8.num), .b v⟩⟩
  | .addRmImm p rm v => ⟨.addRmImm, p, ⟨0#3, some (rm.map Reg.num), v.imm⟩⟩
  | .addRmImm8 p rm v => ⟨.addRmImm8, p, ⟨0#3, some (rm.map Reg.num), .b v⟩⟩
  | .orRm8R8 p rm r => ⟨.orRm8R8, p, ⟨r.num, some (rm.map Reg8.num), .none⟩⟩
  | .orRmR p rm r => ⟨.orRmR, p, ⟨r.num, some (rm.map Reg.num), .none⟩⟩
  | .orR8Rm8 p r rm => ⟨.orR8Rm8, p, ⟨r.num, some (rm.map Reg8.num), .none⟩⟩
  | .orRRm p r rm => ⟨.orRRm, p, ⟨r.num, some (rm.map Reg.num), .none⟩⟩
  | .orAlImm8 p v => ⟨.orAlImm8, p, ⟨0#3, none, .b v⟩⟩
  | .orEaxImm p v => ⟨.orEaxImm, p, ⟨0#3, none, v.imm⟩⟩
  | .orRm8Imm8 p rm v => ⟨.orRm8Imm8, p, ⟨0#3, some (rm.map Reg8.num), .b v⟩⟩
  | .orRmImm p rm v => ⟨.orRmImm, p, ⟨0#3, some (rm.map Reg.num), v.imm⟩⟩
  | .orRmImm8 p rm v => ⟨.orRmImm8, p, ⟨0#3, some (rm.map Reg.num), .b v⟩⟩
  | .adcRm8R8 p rm r => ⟨.adcRm8R8, p, ⟨r.num, some (rm.map Reg8.num), .none⟩⟩
  | .adcRmR p rm r => ⟨.adcRmR, p, ⟨r.num, some (rm.map Reg.num), .none⟩⟩
  | .adcR8Rm8 p r rm => ⟨.adcR8Rm8, p, ⟨r.num, some (rm.map Reg8.num), .none⟩⟩
  | .adcRRm p r rm => ⟨.adcRRm, p, ⟨r.num, some (rm.map Reg.num), .none⟩⟩
  | .adcAlImm8 p v => ⟨.adcAlImm8, p, ⟨0#3, none, .b v⟩⟩
  | .adcEaxImm p v => ⟨.adcEaxImm, p, ⟨0#3, none, v.imm⟩⟩
  | .adcRm8Imm8 p rm v => ⟨.adcRm8Imm8, p, ⟨0#3, some (rm.map Reg8.num), .b v⟩⟩
  | .adcRmImm p rm v => ⟨.adcRmImm, p, ⟨0#3, some (rm.map Reg.num), v.imm⟩⟩
  | .adcRmImm8 p rm v => ⟨.adcRmImm8, p, ⟨0#3, some (rm.map Reg.num), .b v⟩⟩
  | .sbbRm8R8 p rm r => ⟨.sbbRm8R8, p, ⟨r.num, some (rm.map Reg8.num), .none⟩⟩
  | .sbbRmR p rm r => ⟨.sbbRmR, p, ⟨r.num, some (rm.map Reg.num), .none⟩⟩
  | .sbbR8Rm8 p r rm => ⟨.sbbR8Rm8, p, ⟨r.num, some (rm.map Reg8.num), .none⟩⟩
  | .sbbRRm p r rm => ⟨.sbbRRm, p, ⟨r.num, some (rm.map Reg.num), .none⟩⟩
  | .sbbAlImm8 p v => ⟨.sbbAlImm8, p, ⟨0#3, none, .b v⟩⟩
  | .sbbEaxImm p v => ⟨.sbbEaxImm, p, ⟨0#3, none, v.imm⟩⟩
  | .sbbRm8Imm8 p rm v => ⟨.sbbRm8Imm8, p, ⟨0#3, some (rm.map Reg8.num), .b v⟩⟩
  | .sbbRmImm p rm v => ⟨.sbbRmImm, p, ⟨0#3, some (rm.map Reg.num), v.imm⟩⟩
  | .sbbRmImm8 p rm v => ⟨.sbbRmImm8, p, ⟨0#3, some (rm.map Reg.num), .b v⟩⟩
  | .andRm8R8 p rm r => ⟨.andRm8R8, p, ⟨r.num, some (rm.map Reg8.num), .none⟩⟩
  | .andRmR p rm r => ⟨.andRmR, p, ⟨r.num, some (rm.map Reg.num), .none⟩⟩
  | .andR8Rm8 p r rm => ⟨.andR8Rm8, p, ⟨r.num, some (rm.map Reg8.num), .none⟩⟩
  | .andRRm p r rm => ⟨.andRRm, p, ⟨r.num, some (rm.map Reg.num), .none⟩⟩
  | .andAlImm8 p v => ⟨.andAlImm8, p, ⟨0#3, none, .b v⟩⟩
  | .andEaxImm p v => ⟨.andEaxImm, p, ⟨0#3, none, v.imm⟩⟩
  | .andRm8Imm8 p rm v => ⟨.andRm8Imm8, p, ⟨0#3, some (rm.map Reg8.num), .b v⟩⟩
  | .andRmImm p rm v => ⟨.andRmImm, p, ⟨0#3, some (rm.map Reg.num), v.imm⟩⟩
  | .andRmImm8 p rm v => ⟨.andRmImm8, p, ⟨0#3, some (rm.map Reg.num), .b v⟩⟩
  | .subRm8R8 p rm r => ⟨.subRm8R8, p, ⟨r.num, some (rm.map Reg8.num), .none⟩⟩
  | .subRmR p rm r => ⟨.subRmR, p, ⟨r.num, some (rm.map Reg.num), .none⟩⟩
  | .subR8Rm8 p r rm => ⟨.subR8Rm8, p, ⟨r.num, some (rm.map Reg8.num), .none⟩⟩
  | .subRRm p r rm => ⟨.subRRm, p, ⟨r.num, some (rm.map Reg.num), .none⟩⟩
  | .subAlImm8 p v => ⟨.subAlImm8, p, ⟨0#3, none, .b v⟩⟩
  | .subEaxImm p v => ⟨.subEaxImm, p, ⟨0#3, none, v.imm⟩⟩
  | .subRm8Imm8 p rm v => ⟨.subRm8Imm8, p, ⟨0#3, some (rm.map Reg8.num), .b v⟩⟩
  | .subRmImm p rm v => ⟨.subRmImm, p, ⟨0#3, some (rm.map Reg.num), v.imm⟩⟩
  | .subRmImm8 p rm v => ⟨.subRmImm8, p, ⟨0#3, some (rm.map Reg.num), .b v⟩⟩
  | .xorRm8R8 p rm r => ⟨.xorRm8R8, p, ⟨r.num, some (rm.map Reg8.num), .none⟩⟩
  | .xorRmR p rm r => ⟨.xorRmR, p, ⟨r.num, some (rm.map Reg.num), .none⟩⟩
  | .xorR8Rm8 p r rm => ⟨.xorR8Rm8, p, ⟨r.num, some (rm.map Reg8.num), .none⟩⟩
  | .xorRRm p r rm => ⟨.xorRRm, p, ⟨r.num, some (rm.map Reg.num), .none⟩⟩
  | .xorAlImm8 p v => ⟨.xorAlImm8, p, ⟨0#3, none, .b v⟩⟩
  | .xorEaxImm p v => ⟨.xorEaxImm, p, ⟨0#3, none, v.imm⟩⟩
  | .xorRm8Imm8 p rm v => ⟨.xorRm8Imm8, p, ⟨0#3, some (rm.map Reg8.num), .b v⟩⟩
  | .xorRmImm p rm v => ⟨.xorRmImm, p, ⟨0#3, some (rm.map Reg.num), v.imm⟩⟩
  | .xorRmImm8 p rm v => ⟨.xorRmImm8, p, ⟨0#3, some (rm.map Reg.num), .b v⟩⟩
  | .cmpRm8R8 p rm r => ⟨.cmpRm8R8, p, ⟨r.num, some (rm.map Reg8.num), .none⟩⟩
  | .cmpRmR p rm r => ⟨.cmpRmR, p, ⟨r.num, some (rm.map Reg.num), .none⟩⟩
  | .cmpR8Rm8 p r rm => ⟨.cmpR8Rm8, p, ⟨r.num, some (rm.map Reg8.num), .none⟩⟩
  | .cmpRRm p r rm => ⟨.cmpRRm, p, ⟨r.num, some (rm.map Reg.num), .none⟩⟩
  | .cmpAlImm8 p v => ⟨.cmpAlImm8, p, ⟨0#3, none, .b v⟩⟩
  | .cmpEaxImm p v => ⟨.cmpEaxImm, p, ⟨0#3, none, v.imm⟩⟩
  | .cmpRm8Imm8 p rm v => ⟨.cmpRm8Imm8, p, ⟨0#3, some (rm.map Reg8.num), .b v⟩⟩
  | .cmpRmImm p rm v => ⟨.cmpRmImm, p, ⟨0#3, some (rm.map Reg.num), v.imm⟩⟩
  | .cmpRmImm8 p rm v => ⟨.cmpRmImm8, p, ⟨0#3, some (rm.map Reg.num), .b v⟩⟩
  | .incR p r => ⟨.incR, p, ⟨r.num, none, .none⟩⟩
  | .decR p r => ⟨.decR, p, ⟨r.num, none, .none⟩⟩
  | .incRm8 p rm => ⟨.incRm8, p, ⟨0#3, some (rm.map Reg8.num), .none⟩⟩
  | .decRm8 p rm => ⟨.decRm8, p, ⟨0#3, some (rm.map Reg8.num), .none⟩⟩
  | .incRm p rm => ⟨.incRm, p, ⟨0#3, some (rm.map Reg.num), .none⟩⟩
  | .decRm p rm => ⟨.decRm, p, ⟨0#3, some (rm.map Reg.num), .none⟩⟩
  | .testRm8Imm8 p rm v => ⟨.testRm8Imm8, p, ⟨0#3, some (rm.map Reg8.num), .b v⟩⟩
  | .notRm8 p rm => ⟨.notRm8, p, ⟨0#3, some (rm.map Reg8.num), .none⟩⟩
  | .negRm8 p rm => ⟨.negRm8, p, ⟨0#3, some (rm.map Reg8.num), .none⟩⟩
  | .mulRm8 p rm => ⟨.mulRm8, p, ⟨0#3, some (rm.map Reg8.num), .none⟩⟩
  | .imulRm8 p rm => ⟨.imulRm8, p, ⟨0#3, some (rm.map Reg8.num), .none⟩⟩
  | .divRm8 p rm => ⟨.divRm8, p, ⟨0#3, some (rm.map Reg8.num), .none⟩⟩
  | .idivRm8 p rm => ⟨.idivRm8, p, ⟨0#3, some (rm.map Reg8.num), .none⟩⟩
  | .testRmImm p rm v => ⟨.testRmImm, p, ⟨0#3, some (rm.map Reg.num), v.imm⟩⟩
  | .notRm p rm => ⟨.notRm, p, ⟨0#3, some (rm.map Reg.num), .none⟩⟩
  | .negRm p rm => ⟨.negRm, p, ⟨0#3, some (rm.map Reg.num), .none⟩⟩
  | .mulRm p rm => ⟨.mulRm, p, ⟨0#3, some (rm.map Reg.num), .none⟩⟩
  | .imulRm p rm => ⟨.imulRm, p, ⟨0#3, some (rm.map Reg.num), .none⟩⟩
  | .divRm p rm => ⟨.divRm, p, ⟨0#3, some (rm.map Reg.num), .none⟩⟩
  | .idivRm p rm => ⟨.idivRm, p, ⟨0#3, some (rm.map Reg.num), .none⟩⟩
  | .imulRRm p r rm => ⟨.imulRRm, p, ⟨r.num, some (rm.map Reg.num), .none⟩⟩
  | .imulRRmImm p r rm v => ⟨.imulRRmImm, p, ⟨r.num, some (rm.map Reg.num), v.imm⟩⟩
  | .imulRRmImm8 p r rm v => ⟨.imulRRmImm8, p, ⟨r.num, some (rm.map Reg.num), .b v⟩⟩
  | .testRm8R8 p rm r => ⟨.testRm8R8, p, ⟨r.num, some (rm.map Reg8.num), .none⟩⟩
  | .testRmR p rm r => ⟨.testRmR, p, ⟨r.num, some (rm.map Reg.num), .none⟩⟩
  | .testAlImm8 p v => ⟨.testAlImm8, p, ⟨0#3, none, .b v⟩⟩
  | .testEaxImm p v => ⟨.testEaxImm, p, ⟨0#3, none, v.imm⟩⟩
  | .movRm8R8 p rm r => ⟨.movRm8R8, p, ⟨r.num, some (rm.map Reg8.num), .none⟩⟩
  | .movRmR p rm r => ⟨.movRmR, p, ⟨r.num, some (rm.map Reg.num), .none⟩⟩
  | .movR8Rm8 p r rm => ⟨.movR8Rm8, p, ⟨r.num, some (rm.map Reg8.num), .none⟩⟩
  | .movRRm p r rm => ⟨.movRRm, p, ⟨r.num, some (rm.map Reg.num), .none⟩⟩
  | .movR8Imm8 p r v => ⟨.movR8Imm8, p, ⟨r.num, none, .b v⟩⟩
  | .movRImm p r v => ⟨.movRImm, p, ⟨r.num, none, v.imm⟩⟩
  | .movRm8Imm8 p rm v => ⟨.movRm8Imm8, p, ⟨0#3, some (rm.map Reg8.num), .b v⟩⟩
  | .movRmImm p rm v => ⟨.movRmImm, p, ⟨0#3, some (rm.map Reg.num), v.imm⟩⟩
  | .movAlMoffs p d => ⟨.movAlMoffs, p, ⟨0#3, none, .d d⟩⟩
  | .movEaxMoffs p d => ⟨.movEaxMoffs, p, ⟨0#3, none, .d d⟩⟩
  | .movMoffsAl p d => ⟨.movMoffsAl, p, ⟨0#3, none, .d d⟩⟩
  | .movMoffsEax p d => ⟨.movMoffsEax, p, ⟨0#3, none, .d d⟩⟩
  | .leaRM p r m => ⟨.leaRM, p, ⟨r.num, some (.mem m), .none⟩⟩
  | .movzxRRm8 p r rm => ⟨.movzxRRm8, p, ⟨r.num, some (rm.map Reg8.num), .none⟩⟩
  | .movzxRRm16 p r rm => ⟨.movzxRRm16, p, ⟨r.num, some (rm.map Reg.num), .none⟩⟩
  | .movsxRRm8 p r rm => ⟨.movsxRRm8, p, ⟨r.num, some (rm.map Reg8.num), .none⟩⟩
  | .movsxRRm16 p r rm => ⟨.movsxRRm16, p, ⟨r.num, some (rm.map Reg.num), .none⟩⟩
  | .cbw p => ⟨.cbw, p, ⟨0#3, none, .none⟩⟩
  | .cwde p => ⟨.cwde, p, ⟨0#3, none, .none⟩⟩
  | .cwd p => ⟨.cwd, p, ⟨0#3, none, .none⟩⟩
  | .cdq p => ⟨.cdq, p, ⟨0#3, none, .none⟩⟩
  | .cmpsb p => ⟨.cmpsb, p, ⟨0#3, none, .none⟩⟩
  | .cmpsw p => ⟨.cmpsw, p, ⟨0#3, none, .none⟩⟩
  | .cmpsd p => ⟨.cmpsd, p, ⟨0#3, none, .none⟩⟩
  | .clc p => ⟨.clc, p, ⟨0#3, none, .none⟩⟩
  | .stc p => ⟨.stc, p, ⟨0#3, none, .none⟩⟩
  | .cmc p => ⟨.cmc, p, ⟨0#3, none, .none⟩⟩
  | .cld p => ⟨.cld, p, ⟨0#3, none, .none⟩⟩
  | .std p => ⟨.std, p, ⟨0#3, none, .none⟩⟩
  | .aamImm8 p v => ⟨.aamImm8, p, ⟨0#3, none, .b v⟩⟩
  | .aadImm8 p v => ⟨.aadImm8, p, ⟨0#3, none, .b v⟩⟩
  | .rolRm8Imm8 p rm v => ⟨.rolRm8Imm8, p, ⟨0#3, some (rm.map Reg8.num), .b v⟩⟩
  | .rolRmImm8 p rm v => ⟨.rolRmImm8, p, ⟨0#3, some (rm.map Reg.num), .b v⟩⟩
  | .rolRm8One p rm => ⟨.rolRm8One, p, ⟨0#3, some (rm.map Reg8.num), .none⟩⟩
  | .rolRmOne p rm => ⟨.rolRmOne, p, ⟨0#3, some (rm.map Reg.num), .none⟩⟩
  | .rolRm8Cl p rm => ⟨.rolRm8Cl, p, ⟨0#3, some (rm.map Reg8.num), .none⟩⟩
  | .rolRmCl p rm => ⟨.rolRmCl, p, ⟨0#3, some (rm.map Reg.num), .none⟩⟩
  | .rorRm8Imm8 p rm v => ⟨.rorRm8Imm8, p, ⟨0#3, some (rm.map Reg8.num), .b v⟩⟩
  | .rorRmImm8 p rm v => ⟨.rorRmImm8, p, ⟨0#3, some (rm.map Reg.num), .b v⟩⟩
  | .rorRm8One p rm => ⟨.rorRm8One, p, ⟨0#3, some (rm.map Reg8.num), .none⟩⟩
  | .rorRmOne p rm => ⟨.rorRmOne, p, ⟨0#3, some (rm.map Reg.num), .none⟩⟩
  | .rorRm8Cl p rm => ⟨.rorRm8Cl, p, ⟨0#3, some (rm.map Reg8.num), .none⟩⟩
  | .rorRmCl p rm => ⟨.rorRmCl, p, ⟨0#3, some (rm.map Reg.num), .none⟩⟩
  | .rclRm8Imm8 p rm v => ⟨.rclRm8Imm8, p, ⟨0#3, some (rm.map Reg8.num), .b v⟩⟩
  | .rclRmImm8 p rm v => ⟨.rclRmImm8, p, ⟨0#3, some (rm.map Reg.num), .b v⟩⟩
  | .rclRm8One p rm => ⟨.rclRm8One, p, ⟨0#3, some (rm.map Reg8.num), .none⟩⟩
  | .rclRmOne p rm => ⟨.rclRmOne, p, ⟨0#3, some (rm.map Reg.num), .none⟩⟩
  | .rclRm8Cl p rm => ⟨.rclRm8Cl, p, ⟨0#3, some (rm.map Reg8.num), .none⟩⟩
  | .rclRmCl p rm => ⟨.rclRmCl, p, ⟨0#3, some (rm.map Reg.num), .none⟩⟩
  | .rcrRm8Imm8 p rm v => ⟨.rcrRm8Imm8, p, ⟨0#3, some (rm.map Reg8.num), .b v⟩⟩
  | .rcrRmImm8 p rm v => ⟨.rcrRmImm8, p, ⟨0#3, some (rm.map Reg.num), .b v⟩⟩
  | .rcrRm8One p rm => ⟨.rcrRm8One, p, ⟨0#3, some (rm.map Reg8.num), .none⟩⟩
  | .rcrRmOne p rm => ⟨.rcrRmOne, p, ⟨0#3, some (rm.map Reg.num), .none⟩⟩
  | .rcrRm8Cl p rm => ⟨.rcrRm8Cl, p, ⟨0#3, some (rm.map Reg8.num), .none⟩⟩
  | .rcrRmCl p rm => ⟨.rcrRmCl, p, ⟨0#3, some (rm.map Reg.num), .none⟩⟩
  | .shlRm8Imm8 p rm v => ⟨.shlRm8Imm8, p, ⟨0#3, some (rm.map Reg8.num), .b v⟩⟩
  | .shlRmImm8 p rm v => ⟨.shlRmImm8, p, ⟨0#3, some (rm.map Reg.num), .b v⟩⟩
  | .shlRm8One p rm => ⟨.shlRm8One, p, ⟨0#3, some (rm.map Reg8.num), .none⟩⟩
  | .shlRmOne p rm => ⟨.shlRmOne, p, ⟨0#3, some (rm.map Reg.num), .none⟩⟩
  | .shlRm8Cl p rm => ⟨.shlRm8Cl, p, ⟨0#3, some (rm.map Reg8.num), .none⟩⟩
  | .shlRmCl p rm => ⟨.shlRmCl, p, ⟨0#3, some (rm.map Reg.num), .none⟩⟩
  | .shrRm8Imm8 p rm v => ⟨.shrRm8Imm8, p, ⟨0#3, some (rm.map Reg8.num), .b v⟩⟩
  | .shrRmImm8 p rm v => ⟨.shrRmImm8, p, ⟨0#3, some (rm.map Reg.num), .b v⟩⟩
  | .shrRm8One p rm => ⟨.shrRm8One, p, ⟨0#3, some (rm.map Reg8.num), .none⟩⟩
  | .shrRmOne p rm => ⟨.shrRmOne, p, ⟨0#3, some (rm.map Reg.num), .none⟩⟩
  | .shrRm8Cl p rm => ⟨.shrRm8Cl, p, ⟨0#3, some (rm.map Reg8.num), .none⟩⟩
  | .shrRmCl p rm => ⟨.shrRmCl, p, ⟨0#3, some (rm.map Reg.num), .none⟩⟩
  | .sarRm8Imm8 p rm v => ⟨.sarRm8Imm8, p, ⟨0#3, some (rm.map Reg8.num), .b v⟩⟩
  | .sarRmImm8 p rm v => ⟨.sarRmImm8, p, ⟨0#3, some (rm.map Reg.num), .b v⟩⟩
  | .sarRm8One p rm => ⟨.sarRm8One, p, ⟨0#3, some (rm.map Reg8.num), .none⟩⟩
  | .sarRmOne p rm => ⟨.sarRmOne, p, ⟨0#3, some (rm.map Reg.num), .none⟩⟩
  | .sarRm8Cl p rm => ⟨.sarRm8Cl, p, ⟨0#3, some (rm.map Reg8.num), .none⟩⟩
  | .sarRmCl p rm => ⟨.sarRmCl, p, ⟨0#3, some (rm.map Reg.num), .none⟩⟩
  | .callRel32 p d => ⟨.callRel32, p, ⟨0#3, none, .d d⟩⟩
  | .callRm32 p rm => ⟨.callRm32, p, ⟨0#3, some (rm.map Reg.num), .none⟩⟩
  | .ret p => ⟨.ret, p, ⟨0#3, none, .none⟩⟩
  | .retImm16 p v => ⟨.retImm16, p, ⟨0#3, none, .w v⟩⟩
  | .jmpRel8 p d => ⟨.jmpRel8, p, ⟨0#3, none, .b d⟩⟩
  | .jmpRel32 p d => ⟨.jmpRel32, p, ⟨0#3, none, .d d⟩⟩
  | .jmpRm32 p rm => ⟨.jmpRm32, p, ⟨0#3, some (rm.map Reg.num), .none⟩⟩
  | .joRel8 p d => ⟨.joRel8, p, ⟨0#3, none, .b d⟩⟩
  | .joRel32 p d => ⟨.joRel32, p, ⟨0#3, none, .d d⟩⟩
  | .jnoRel8 p d => ⟨.jnoRel8, p, ⟨0#3, none, .b d⟩⟩
  | .jnoRel32 p d => ⟨.jnoRel32, p, ⟨0#3, none, .d d⟩⟩
  | .jbRel8 p d => ⟨.jbRel8, p, ⟨0#3, none, .b d⟩⟩
  | .jbRel32 p d => ⟨.jbRel32, p, ⟨0#3, none, .d d⟩⟩
  | .jaeRel8 p d => ⟨.jaeRel8, p, ⟨0#3, none, .b d⟩⟩
  | .jaeRel32 p d => ⟨.jaeRel32, p, ⟨0#3, none, .d d⟩⟩
  | .jeRel8 p d => ⟨.jeRel8, p, ⟨0#3, none, .b d⟩⟩
  | .jeRel32 p d => ⟨.jeRel32, p, ⟨0#3, none, .d d⟩⟩
  | .jneRel8 p d => ⟨.jneRel8, p, ⟨0#3, none, .b d⟩⟩
  | .jneRel32 p d => ⟨.jneRel32, p, ⟨0#3, none, .d d⟩⟩
  | .jbeRel8 p d => ⟨.jbeRel8, p, ⟨0#3, none, .b d⟩⟩
  | .jbeRel32 p d => ⟨.jbeRel32, p, ⟨0#3, none, .d d⟩⟩
  | .jaRel8 p d => ⟨.jaRel8, p, ⟨0#3, none, .b d⟩⟩
  | .jaRel32 p d => ⟨.jaRel32, p, ⟨0#3, none, .d d⟩⟩
  | .jsRel8 p d => ⟨.jsRel8, p, ⟨0#3, none, .b d⟩⟩
  | .jsRel32 p d => ⟨.jsRel32, p, ⟨0#3, none, .d d⟩⟩
  | .jnsRel8 p d => ⟨.jnsRel8, p, ⟨0#3, none, .b d⟩⟩
  | .jnsRel32 p d => ⟨.jnsRel32, p, ⟨0#3, none, .d d⟩⟩
  | .jpRel8 p d => ⟨.jpRel8, p, ⟨0#3, none, .b d⟩⟩
  | .jpRel32 p d => ⟨.jpRel32, p, ⟨0#3, none, .d d⟩⟩
  | .jnpRel8 p d => ⟨.jnpRel8, p, ⟨0#3, none, .b d⟩⟩
  | .jnpRel32 p d => ⟨.jnpRel32, p, ⟨0#3, none, .d d⟩⟩
  | .jlRel8 p d => ⟨.jlRel8, p, ⟨0#3, none, .b d⟩⟩
  | .jlRel32 p d => ⟨.jlRel32, p, ⟨0#3, none, .d d⟩⟩
  | .jgeRel8 p d => ⟨.jgeRel8, p, ⟨0#3, none, .b d⟩⟩
  | .jgeRel32 p d => ⟨.jgeRel32, p, ⟨0#3, none, .d d⟩⟩
  | .jleRel8 p d => ⟨.jleRel8, p, ⟨0#3, none, .b d⟩⟩
  | .jleRel32 p d => ⟨.jleRel32, p, ⟨0#3, none, .d d⟩⟩
  | .jgRel8 p d => ⟨.jgRel8, p, ⟨0#3, none, .b d⟩⟩
  | .jgRel32 p d => ⟨.jgRel32, p, ⟨0#3, none, .d d⟩⟩
  | .cmovoRRm p r rm => ⟨.cmovoRRm, p, ⟨r.num, some (rm.map Reg.num), .none⟩⟩
  | .cmovnoRRm p r rm => ⟨.cmovnoRRm, p, ⟨r.num, some (rm.map Reg.num), .none⟩⟩
  | .cmovbRRm p r rm => ⟨.cmovbRRm, p, ⟨r.num, some (rm.map Reg.num), .none⟩⟩
  | .cmovaeRRm p r rm => ⟨.cmovaeRRm, p, ⟨r.num, some (rm.map Reg.num), .none⟩⟩
  | .cmoveRRm p r rm => ⟨.cmoveRRm, p, ⟨r.num, some (rm.map Reg.num), .none⟩⟩
  | .cmovneRRm p r rm => ⟨.cmovneRRm, p, ⟨r.num, some (rm.map Reg.num), .none⟩⟩
  | .cmovbeRRm p r rm => ⟨.cmovbeRRm, p, ⟨r.num, some (rm.map Reg.num), .none⟩⟩
  | .cmovaRRm p r rm => ⟨.cmovaRRm, p, ⟨r.num, some (rm.map Reg.num), .none⟩⟩
  | .cmovsRRm p r rm => ⟨.cmovsRRm, p, ⟨r.num, some (rm.map Reg.num), .none⟩⟩
  | .cmovnsRRm p r rm => ⟨.cmovnsRRm, p, ⟨r.num, some (rm.map Reg.num), .none⟩⟩
  | .cmovpRRm p r rm => ⟨.cmovpRRm, p, ⟨r.num, some (rm.map Reg.num), .none⟩⟩
  | .cmovnpRRm p r rm => ⟨.cmovnpRRm, p, ⟨r.num, some (rm.map Reg.num), .none⟩⟩
  | .cmovlRRm p r rm => ⟨.cmovlRRm, p, ⟨r.num, some (rm.map Reg.num), .none⟩⟩
  | .cmovgeRRm p r rm => ⟨.cmovgeRRm, p, ⟨r.num, some (rm.map Reg.num), .none⟩⟩
  | .cmovleRRm p r rm => ⟨.cmovleRRm, p, ⟨r.num, some (rm.map Reg.num), .none⟩⟩
  | .cmovgRRm p r rm => ⟨.cmovgRRm, p, ⟨r.num, some (rm.map Reg.num), .none⟩⟩
  | .bsfRRm p r rm => ⟨.bsfRRm, p, ⟨r.num, some (rm.map Reg.num), .none⟩⟩
  | .bsrRRm p r rm => ⟨.bsrRRm, p, ⟨r.num, some (rm.map Reg.num), .none⟩⟩
  | .bswapR32 p r => ⟨.bswapR32, p, ⟨r.num, none, .none⟩⟩
  | .btRmR p rm r => ⟨.btRmR, p, ⟨r.num, some (rm.map Reg.num), .none⟩⟩
  | .btRmImm8 p rm v => ⟨.btRmImm8, p, ⟨0#3, some (rm.map Reg.num), .b v⟩⟩
  | .btsRmR p rm r => ⟨.btsRmR, p, ⟨r.num, some (rm.map Reg.num), .none⟩⟩
  | .btsRmImm8 p rm v => ⟨.btsRmImm8, p, ⟨0#3, some (rm.map Reg.num), .b v⟩⟩
  | .btrRmR p rm r => ⟨.btrRmR, p, ⟨r.num, some (rm.map Reg.num), .none⟩⟩
  | .btrRmImm8 p rm v => ⟨.btrRmImm8, p, ⟨0#3, some (rm.map Reg.num), .b v⟩⟩
  | .btcRmR p rm r => ⟨.btcRmR, p, ⟨r.num, some (rm.map Reg.num), .none⟩⟩
  | .btcRmImm8 p rm v => ⟨.btcRmImm8, p, ⟨0#3, some (rm.map Reg.num), .b v⟩⟩

/-- The instruction with given parts, where the raw fields are those the row has. -/
def Parts.build (x : Parts) : Option Instr :=
  let p := x.prefixes
  let raw := x.raw
  match x.form with
  | .addRm8R8 => raw.onRm fun m => some (.addRm8R8 p (m.map Reg8.ofNum) (Reg8.ofNum raw.reg))
  | .addRmR => raw.onRm fun m => some (.addRmR p (m.map Reg.ofNum) (Reg.ofNum raw.reg))
  | .addR8Rm8 => raw.onRm fun m => some (.addR8Rm8 p (Reg8.ofNum raw.reg) (m.map Reg8.ofNum))
  | .addRRm => raw.onRm fun m => some (.addRRm p (Reg.ofNum raw.reg) (m.map Reg.ofNum))
  | .addAlImm8 => raw.onB fun v => some (.addAlImm8 p v)
  | .addEaxImm => raw.onZ fun v => some (.addEaxImm p v)
  | .addRm8Imm8 => raw.onRm fun m => raw.onB fun v => some (.addRm8Imm8 p (m.map Reg8.ofNum) v)
  | .addRmImm => raw.onRm fun m => raw.onZ fun v => some (.addRmImm p (m.map Reg.ofNum) v)
  | .addRmImm8 => raw.onRm fun m => raw.onB fun v => some (.addRmImm8 p (m.map Reg.ofNum) v)
  | .orRm8R8 => raw.onRm fun m => some (.orRm8R8 p (m.map Reg8.ofNum) (Reg8.ofNum raw.reg))
  | .orRmR => raw.onRm fun m => some (.orRmR p (m.map Reg.ofNum) (Reg.ofNum raw.reg))
  | .orR8Rm8 => raw.onRm fun m => some (.orR8Rm8 p (Reg8.ofNum raw.reg) (m.map Reg8.ofNum))
  | .orRRm => raw.onRm fun m => some (.orRRm p (Reg.ofNum raw.reg) (m.map Reg.ofNum))
  | .orAlImm8 => raw.onB fun v => some (.orAlImm8 p v)
  | .orEaxImm => raw.onZ fun v => some (.orEaxImm p v)
  | .orRm8Imm8 => raw.onRm fun m => raw.onB fun v => some (.orRm8Imm8 p (m.map Reg8.ofNum) v)
  | .orRmImm => raw.onRm fun m => raw.onZ fun v => some (.orRmImm p (m.map Reg.ofNum) v)
  | .orRmImm8 => raw.onRm fun m => raw.onB fun v => some (.orRmImm8 p (m.map Reg.ofNum) v)
  | .adcRm8R8 => raw.onRm fun m => some (.adcRm8R8 p (m.map Reg8.ofNum) (Reg8.ofNum raw.reg))
  | .adcRmR => raw.onRm fun m => some (.adcRmR p (m.map Reg.ofNum) (Reg.ofNum raw.reg))
  | .adcR8Rm8 => raw.onRm fun m => some (.adcR8Rm8 p (Reg8.ofNum raw.reg) (m.map Reg8.ofNum))
  | .adcRRm => raw.onRm fun m => some (.adcRRm p (Reg.ofNum raw.reg) (m.map Reg.ofNum))
  | .adcAlImm8 => raw.onB fun v => some (.adcAlImm8 p v)
  | .adcEaxImm => raw.onZ fun v => some (.adcEaxImm p v)
  | .adcRm8Imm8 => raw.onRm fun m => raw.onB fun v => some (.adcRm8Imm8 p (m.map Reg8.ofNum) v)
  | .adcRmImm => raw.onRm fun m => raw.onZ fun v => some (.adcRmImm p (m.map Reg.ofNum) v)
  | .adcRmImm8 => raw.onRm fun m => raw.onB fun v => some (.adcRmImm8 p (m.map Reg.ofNum) v)
  | .sbbRm8R8 => raw.onRm fun m => some (.sbbRm8R8 p (m.map Reg8.ofNum) (Reg8.ofNum raw.reg))
  | .sbbRmR => raw.onRm fun m => some (.sbbRmR p (m.map Reg.ofNum) (Reg.ofNum raw.reg))
  | .sbbR8Rm8 => raw.onRm fun m => some (.sbbR8Rm8 p (Reg8.ofNum raw.reg) (m.map Reg8.ofNum))
  | .sbbRRm => raw.onRm fun m => some (.sbbRRm p (Reg.ofNum raw.reg) (m.map Reg.ofNum))
  | .sbbAlImm8 => raw.onB fun v => some (.sbbAlImm8 p v)
  | .sbbEaxImm => raw.onZ fun v => some (.sbbEaxImm p v)
  | .sbbRm8Imm8 => raw.onRm fun m => raw.onB fun v => some (.sbbRm8Imm8 p (m.map Reg8.ofNum) v)
  | .sbbRmImm => raw.onRm fun m => raw.onZ fun v => some (.sbbRmImm p (m.map Reg.ofNum) v)
  | .sbbRmImm8 => raw.onRm fun m => raw.onB fun v => some (.sbbRmImm8 p (m.map Reg.ofNum) v)
  | .andRm8R8 => raw.onRm fun m => some (.andRm8R8 p (m.map Reg8.ofNum) (Reg8.ofNum raw.reg))
  | .andRmR => raw.onRm fun m => some (.andRmR p (m.map Reg.ofNum) (Reg.ofNum raw.reg))
  | .andR8Rm8 => raw.onRm fun m => some (.andR8Rm8 p (Reg8.ofNum raw.reg) (m.map Reg8.ofNum))
  | .andRRm => raw.onRm fun m => some (.andRRm p (Reg.ofNum raw.reg) (m.map Reg.ofNum))
  | .andAlImm8 => raw.onB fun v => some (.andAlImm8 p v)
  | .andEaxImm => raw.onZ fun v => some (.andEaxImm p v)
  | .andRm8Imm8 => raw.onRm fun m => raw.onB fun v => some (.andRm8Imm8 p (m.map Reg8.ofNum) v)
  | .andRmImm => raw.onRm fun m => raw.onZ fun v => some (.andRmImm p (m.map Reg.ofNum) v)
  | .andRmImm8 => raw.onRm fun m => raw.onB fun v => some (.andRmImm8 p (m.map Reg.ofNum) v)
  | .subRm8R8 => raw.onRm fun m => some (.subRm8R8 p (m.map Reg8.ofNum) (Reg8.ofNum raw.reg))
  | .subRmR => raw.onRm fun m => some (.subRmR p (m.map Reg.ofNum) (Reg.ofNum raw.reg))
  | .subR8Rm8 => raw.onRm fun m => some (.subR8Rm8 p (Reg8.ofNum raw.reg) (m.map Reg8.ofNum))
  | .subRRm => raw.onRm fun m => some (.subRRm p (Reg.ofNum raw.reg) (m.map Reg.ofNum))
  | .subAlImm8 => raw.onB fun v => some (.subAlImm8 p v)
  | .subEaxImm => raw.onZ fun v => some (.subEaxImm p v)
  | .subRm8Imm8 => raw.onRm fun m => raw.onB fun v => some (.subRm8Imm8 p (m.map Reg8.ofNum) v)
  | .subRmImm => raw.onRm fun m => raw.onZ fun v => some (.subRmImm p (m.map Reg.ofNum) v)
  | .subRmImm8 => raw.onRm fun m => raw.onB fun v => some (.subRmImm8 p (m.map Reg.ofNum) v)
  | .xorRm8R8 => raw.onRm fun m => some (.xorRm8R8 p (m.map Reg8.ofNum) (Reg8.ofNum raw.reg))
  | .xorRmR => raw.onRm fun m => some (.xorRmR p (m.map Reg.ofNum) (Reg.ofNum raw.reg))
  | .xorR8Rm8 => raw.onRm fun m => some (.xorR8Rm8 p (Reg8.ofNum raw.reg) (m.map Reg8.ofNum))
  | .xorRRm => raw.onRm fun m => some (.xorRRm p (Reg.ofNum raw.reg) (m.map Reg.ofNum))
  | .xorAlImm8 => raw.onB fun v => some (.xorAlImm8 p v)
  | .xorEaxImm => raw.onZ fun v => some (.xorEaxImm p v)
  | .xorRm8Imm8 => raw.onRm fun m => raw.onB fun v => some (.xorRm8Imm8 p (m.map Reg8.ofNum) v)
  | .xorRmImm => raw.onRm fun m => raw.onZ fun v => some (.xorRmImm p (m.map Reg.ofNum) v)
  | .xorRmImm8 => raw.onRm fun m => raw.onB fun v => some (.xorRmImm8 p (m.map Reg.ofNum) v)
  | .cmpRm8R8 => raw.onRm fun m => some (.cmpRm8R8 p (m.map Reg8.ofNum) (Reg8.ofNum raw.reg))
  | .cmpRmR => raw.onRm fun m => some (.cmpRmR p (m.map Reg.ofNum) (Reg.ofNum raw.reg))
  | .cmpR8Rm8 => raw.onRm fun m => some (.cmpR8Rm8 p (Reg8.ofNum raw.reg) (m.map Reg8.ofNum))
  | .cmpRRm => raw.onRm fun m => some (.cmpRRm p (Reg.ofNum raw.reg) (m.map Reg.ofNum))
  | .cmpAlImm8 => raw.onB fun v => some (.cmpAlImm8 p v)
  | .cmpEaxImm => raw.onZ fun v => some (.cmpEaxImm p v)
  | .cmpRm8Imm8 => raw.onRm fun m => raw.onB fun v => some (.cmpRm8Imm8 p (m.map Reg8.ofNum) v)
  | .cmpRmImm => raw.onRm fun m => raw.onZ fun v => some (.cmpRmImm p (m.map Reg.ofNum) v)
  | .cmpRmImm8 => raw.onRm fun m => raw.onB fun v => some (.cmpRmImm8 p (m.map Reg.ofNum) v)
  | .incR => some (.incR p (Reg.ofNum raw.reg))
  | .decR => some (.decR p (Reg.ofNum raw.reg))
  | .incRm8 => raw.onRm fun m => some (.incRm8 p (m.map Reg8.ofNum))
  | .decRm8 => raw.onRm fun m => some (.decRm8 p (m.map Reg8.ofNum))
  | .incRm => raw.onRm fun m => some (.incRm p (m.map Reg.ofNum))
  | .decRm => raw.onRm fun m => some (.decRm p (m.map Reg.ofNum))
  | .testRm8Imm8 => raw.onRm fun m => raw.onB fun v => some (.testRm8Imm8 p (m.map Reg8.ofNum) v)
  | .notRm8 => raw.onRm fun m => some (.notRm8 p (m.map Reg8.ofNum))
  | .negRm8 => raw.onRm fun m => some (.negRm8 p (m.map Reg8.ofNum))
  | .mulRm8 => raw.onRm fun m => some (.mulRm8 p (m.map Reg8.ofNum))
  | .imulRm8 => raw.onRm fun m => some (.imulRm8 p (m.map Reg8.ofNum))
  | .divRm8 => raw.onRm fun m => some (.divRm8 p (m.map Reg8.ofNum))
  | .idivRm8 => raw.onRm fun m => some (.idivRm8 p (m.map Reg8.ofNum))
  | .testRmImm => raw.onRm fun m => raw.onZ fun v => some (.testRmImm p (m.map Reg.ofNum) v)
  | .notRm => raw.onRm fun m => some (.notRm p (m.map Reg.ofNum))
  | .negRm => raw.onRm fun m => some (.negRm p (m.map Reg.ofNum))
  | .mulRm => raw.onRm fun m => some (.mulRm p (m.map Reg.ofNum))
  | .imulRm => raw.onRm fun m => some (.imulRm p (m.map Reg.ofNum))
  | .divRm => raw.onRm fun m => some (.divRm p (m.map Reg.ofNum))
  | .idivRm => raw.onRm fun m => some (.idivRm p (m.map Reg.ofNum))
  | .imulRRm => raw.onRm fun m => some (.imulRRm p (Reg.ofNum raw.reg) (m.map Reg.ofNum))
  | .imulRRmImm => raw.onRm fun m => raw.onZ fun v => some (.imulRRmImm p (Reg.ofNum raw.reg) (m.map Reg.ofNum) v)
  | .imulRRmImm8 => raw.onRm fun m => raw.onB fun v => some (.imulRRmImm8 p (Reg.ofNum raw.reg) (m.map Reg.ofNum) v)
  | .testRm8R8 => raw.onRm fun m => some (.testRm8R8 p (m.map Reg8.ofNum) (Reg8.ofNum raw.reg))
  | .testRmR => raw.onRm fun m => some (.testRmR p (m.map Reg.ofNum) (Reg.ofNum raw.reg))
  | .testAlImm8 => raw.onB fun v => some (.testAlImm8 p v)
  | .testEaxImm => raw.onZ fun v => some (.testEaxImm p v)
  | .movRm8R8 => raw.onRm fun m => some (.movRm8R8 p (m.map Reg8.ofNum) (Reg8.ofNum raw.reg))
  | .movRmR => raw.onRm fun m => some (.movRmR p (m.map Reg.ofNum) (Reg.ofNum raw.reg))
  | .movR8Rm8 => raw.onRm fun m => some (.movR8Rm8 p (Reg8.ofNum raw.reg) (m.map Reg8.ofNum))
  | .movRRm => raw.onRm fun m => some (.movRRm p (Reg.ofNum raw.reg) (m.map Reg.ofNum))
  | .movR8Imm8 => raw.onB fun v => some (.movR8Imm8 p (Reg8.ofNum raw.reg) v)
  | .movRImm => raw.onZ fun v => some (.movRImm p (Reg.ofNum raw.reg) v)
  | .movRm8Imm8 => raw.onRm fun m => raw.onB fun v => some (.movRm8Imm8 p (m.map Reg8.ofNum) v)
  | .movRmImm => raw.onRm fun m => raw.onZ fun v => some (.movRmImm p (m.map Reg.ofNum) v)
  | .movAlMoffs => raw.onD fun v => some (.movAlMoffs p v)
  | .movEaxMoffs => raw.onD fun v => some (.movEaxMoffs p v)
  | .movMoffsAl => raw.onD fun v => some (.movMoffsAl p v)
  | .movMoffsEax => raw.onD fun v => some (.movMoffsEax p v)
  | .leaRM => raw.onMem fun m => some (.leaRM p (Reg.ofNum raw.reg) m)
  | .movzxRRm8 => raw.onRm fun m => some (.movzxRRm8 p (Reg.ofNum raw.reg) (m.map Reg8.ofNum))
  | .movzxRRm16 => raw.onRm fun m => some (.movzxRRm16 p (Reg.ofNum raw.reg) (m.map Reg.ofNum))
  | .movsxRRm8 => raw.onRm fun m => some (.movsxRRm8 p (Reg.ofNum raw.reg) (m.map Reg8.ofNum))
  | .movsxRRm16 => raw.onRm fun m => some (.movsxRRm16 p (Reg.ofNum raw.reg) (m.map Reg.ofNum))
  | .cbw => some (.cbw p)
  | .cwde => some (.cwde p)
  | .cwd => some (.cwd p)
  | .cdq => some (.cdq p)
  | .cmpsb => some (.cmpsb p)
  | .cmpsw => some (.cmpsw p)
  | .cmpsd => some (.cmpsd p)
  | .clc => some (.clc p)
  | .stc => some (.stc p)
  | .cmc => some (.cmc p)
  | .cld => some (.cld p)
  | .std => some (.std p)
  | .aamImm8 => raw.onB fun v => some (.aamImm8 p v)
  | .aadImm8 => raw.onB fun v => some (.aadImm8 p v)
  | .rolRm8Imm8 => raw.onRm fun m => raw.onB fun v => some (.rolRm8Imm8 p (m.map Reg8.ofNum) v)
  | .rolRmImm8 => raw.onRm fun m => raw.onB fun v => some (.rolRmImm8 p (m.map Reg.ofNum) v)
  | .rolRm8One => raw.onRm fun m => some (.rolRm8One p (m.map Reg8.ofNum))
  | .rolRmOne => raw.onRm fun m => some (.rolRmOne p (m.map Reg.ofNum))
  | .rolRm8Cl => raw.onRm fun m => some (.rolRm8Cl p (m.map Reg8.ofNum))
  | .rolRmCl => raw.onRm fun m => some (.rolRmCl p (m.map Reg.ofNum))
  | .rorRm8Imm8 => raw.onRm fun m => raw.onB fun v => some (.rorRm8Imm8 p (m.map Reg8.ofNum) v)
  | .rorRmImm8 => raw.onRm fun m => raw.onB fun v => some (.rorRmImm8 p (m.map Reg.ofNum) v)
  | .rorRm8One => raw.onRm fun m => some (.rorRm8One p (m.map Reg8.ofNum))
  | .rorRmOne => raw.onRm fun m => some (.rorRmOne p (m.map Reg.ofNum))
  | .rorRm8Cl => raw.onRm fun m => some (.rorRm8Cl p (m.map Reg8.ofNum))
  | .rorRmCl => raw.onRm fun m => some (.rorRmCl p (m.map Reg.ofNum))
  | .rclRm8Imm8 => raw.onRm fun m => raw.onB fun v => some (.rclRm8Imm8 p (m.map Reg8.ofNum) v)
  | .rclRmImm8 => raw.onRm fun m => raw.onB fun v => some (.rclRmImm8 p (m.map Reg.ofNum) v)
  | .rclRm8One => raw.onRm fun m => some (.rclRm8One p (m.map Reg8.ofNum))
  | .rclRmOne => raw.onRm fun m => some (.rclRmOne p (m.map Reg.ofNum))
  | .rclRm8Cl => raw.onRm fun m => some (.rclRm8Cl p (m.map Reg8.ofNum))
  | .rclRmCl => raw.onRm fun m => some (.rclRmCl p (m.map Reg.ofNum))
  | .rcrRm8Imm8 => raw.onRm fun m => raw.onB fun v => some (.rcrRm8Imm8 p (m.map Reg8.ofNum) v)
  | .rcrRmImm8 => raw.onRm fun m => raw.onB fun v => some (.rcrRmImm8 p (m.map Reg.ofNum) v)
  | .rcrRm8One => raw.onRm fun m => some (.rcrRm8One p (m.map Reg8.ofNum))
  | .rcrRmOne => raw.onRm fun m => some (.rcrRmOne p (m.map Reg.ofNum))
  | .rcrRm8Cl => raw.onRm fun m => some (.rcrRm8Cl p (m.map Reg8.ofNum))
  | .rcrRmCl => raw.onRm fun m => some (.rcrRmCl p (m.map Reg.ofNum))
  | .shlRm8Imm8 => raw.onRm fun m => raw.onB fun v => some (.shlRm8Imm8 p (m.map Reg8.ofNum) v)
  | .shlRmImm8 => raw.onRm fun m => raw.onB fun v => some (.shlRmImm8 p (m.map Reg.ofNum) v)
  | .shlRm8One => raw.onRm fun m => some (.shlRm8One p (m.map Reg8.ofNum))
  | .shlRmOne => raw.onRm fun m => some (.shlRmOne p (m.map Reg.ofNum))
  | .shlRm8Cl => raw.onRm fun m => some (.shlRm8Cl p (m.map Reg8.ofNum))
  | .shlRmCl => raw.onRm fun m => some (.shlRmCl p (m.map Reg.ofNum))
  | .shrRm8Imm8 => raw.onRm fun m => raw.onB fun v => some (.shrRm8Imm8 p (m.map Reg8.ofNum) v)
  | .shrRmImm8 => raw.onRm fun m => raw.onB fun v => some (.shrRmImm8 p (m.map Reg.ofNum) v)
  | .shrRm8One => raw.onRm fun m => some (.shrRm8One p (m.map Reg8.ofNum))
  | .shrRmOne => raw.onRm fun m => some (.shrRmOne p (m.map Reg.ofNum))
  | .shrRm8Cl => raw.onRm fun m => some (.shrRm8Cl p (m.map Reg8.ofNum))
  | .shrRmCl => raw.onRm fun m => some (.shrRmCl p (m.map Reg.ofNum))
  | .sarRm8Imm8 => raw.onRm fun m => raw.onB fun v => some (.sarRm8Imm8 p (m.map Reg8.ofNum) v)
  | .sarRmImm8 => raw.onRm fun m => raw.onB fun v => some (.sarRmImm8 p (m.map Reg.ofNum) v)
  | .sarRm8One => raw.onRm fun m => some (.sarRm8One p (m.map Reg8.ofNum))
  | .sarRmOne => raw.onRm fun m => some (.sarRmOne p (m.map Reg.ofNum))
  | .sarRm8Cl => raw.onRm fun m => some (.sarRm8Cl p (m.map Reg8.ofNum))
  | .sarRmCl => raw.onRm fun m => some (.sarRmCl p (m.map Reg.ofNum))
  | .callRel32 => raw.onD fun v => some (.callRel32 p v)
  | .callRm32 => raw.onRm fun m => some (.callRm32 p (m.map Reg.ofNum))
  | .ret => some (.ret p)
  | .retImm16 => raw.onW fun v => some (.retImm16 p v)
  | .jmpRel8 => raw.onB fun v => some (.jmpRel8 p v)
  | .jmpRel32 => raw.onD fun v => some (.jmpRel32 p v)
  | .jmpRm32 => raw.onRm fun m => some (.jmpRm32 p (m.map Reg.ofNum))
  | .joRel8 => raw.onB fun v => some (.joRel8 p v)
  | .joRel32 => raw.onD fun v => some (.joRel32 p v)
  | .jnoRel8 => raw.onB fun v => some (.jnoRel8 p v)
  | .jnoRel32 => raw.onD fun v => some (.jnoRel32 p v)
  | .jbRel8 => raw.onB fun v => some (.jbRel8 p v)
  | .jbRel32 => raw.onD fun v => some (.jbRel32 p v)
  | .jaeRel8 => raw.onB fun v => some (.jaeRel8 p v)
  | .jaeRel32 => raw.onD fun v => some (.jaeRel32 p v)
  | .jeRel8 => raw.onB fun v => some (.jeRel8 p v)
  | .jeRel32 => raw.onD fun v => some (.jeRel32 p v)
  | .jneRel8 => raw.onB fun v => some (.jneRel8 p v)
  | .jneRel32 => raw.onD fun v => some (.jneRel32 p v)
  | .jbeRel8 => raw.onB fun v => some (.jbeRel8 p v)
  | .jbeRel32 => raw.onD fun v => some (.jbeRel32 p v)
  | .jaRel8 => raw.onB fun v => some (.jaRel8 p v)
  | .jaRel32 => raw.onD fun v => some (.jaRel32 p v)
  | .jsRel8 => raw.onB fun v => some (.jsRel8 p v)
  | .jsRel32 => raw.onD fun v => some (.jsRel32 p v)
  | .jnsRel8 => raw.onB fun v => some (.jnsRel8 p v)
  | .jnsRel32 => raw.onD fun v => some (.jnsRel32 p v)
  | .jpRel8 => raw.onB fun v => some (.jpRel8 p v)
  | .jpRel32 => raw.onD fun v => some (.jpRel32 p v)
  | .jnpRel8 => raw.onB fun v => some (.jnpRel8 p v)
  | .jnpRel32 => raw.onD fun v => some (.jnpRel32 p v)
  | .jlRel8 => raw.onB fun v => some (.jlRel8 p v)
  | .jlRel32 => raw.onD fun v => some (.jlRel32 p v)
  | .jgeRel8 => raw.onB fun v => some (.jgeRel8 p v)
  | .jgeRel32 => raw.onD fun v => some (.jgeRel32 p v)
  | .jleRel8 => raw.onB fun v => some (.jleRel8 p v)
  | .jleRel32 => raw.onD fun v => some (.jleRel32 p v)
  | .jgRel8 => raw.onB fun v => some (.jgRel8 p v)
  | .jgRel32 => raw.onD fun v => some (.jgRel32 p v)
  | .cmovoRRm => raw.onRm fun m => some (.cmovoRRm p (Reg.ofNum raw.reg) (m.map Reg.ofNum))
  | .cmovnoRRm => raw.onRm fun m => some (.cmovnoRRm p (Reg.ofNum raw.reg) (m.map Reg.ofNum))
  | .cmovbRRm => raw.onRm fun m => some (.cmovbRRm p (Reg.ofNum raw.reg) (m.map Reg.ofNum))
  | .cmovaeRRm => raw.onRm fun m => some (.cmovaeRRm p (Reg.ofNum raw.reg) (m.map Reg.ofNum))
  | .cmoveRRm => raw.onRm fun m => some (.cmoveRRm p (Reg.ofNum raw.reg) (m.map Reg.ofNum))
  | .cmovneRRm => raw.onRm fun m => some (.cmovneRRm p (Reg.ofNum raw.reg) (m.map Reg.ofNum))
  | .cmovbeRRm => raw.onRm fun m => some (.cmovbeRRm p (Reg.ofNum raw.reg) (m.map Reg.ofNum))
  | .cmovaRRm => raw.onRm fun m => some (.cmovaRRm p (Reg.ofNum raw.reg) (m.map Reg.ofNum))
  | .cmovsRRm => raw.onRm fun m => some (.cmovsRRm p (Reg.ofNum raw.reg) (m.map Reg.ofNum))
  | .cmovnsRRm => raw.onRm fun m => some (.cmovnsRRm p (Reg.ofNum raw.reg) (m.map Reg.ofNum))
  | .cmovpRRm => raw.onRm fun m => some (.cmovpRRm p (Reg.ofNum raw.reg) (m.map Reg.ofNum))
  | .cmovnpRRm => raw.onRm fun m => some (.cmovnpRRm p (Reg.ofNum raw.reg) (m.map Reg.ofNum))
  | .cmovlRRm => raw.onRm fun m => some (.cmovlRRm p (Reg.ofNum raw.reg) (m.map Reg.ofNum))
  | .cmovgeRRm => raw.onRm fun m => some (.cmovgeRRm p (Reg.ofNum raw.reg) (m.map Reg.ofNum))
  | .cmovleRRm => raw.onRm fun m => some (.cmovleRRm p (Reg.ofNum raw.reg) (m.map Reg.ofNum))
  | .cmovgRRm => raw.onRm fun m => some (.cmovgRRm p (Reg.ofNum raw.reg) (m.map Reg.ofNum))
  | .bsfRRm => raw.onRm fun m => some (.bsfRRm p (Reg.ofNum raw.reg) (m.map Reg.ofNum))
  | .bsrRRm => raw.onRm fun m => some (.bsrRRm p (Reg.ofNum raw.reg) (m.map Reg.ofNum))
  | .bswapR32 => some (.bswapR32 p (Reg.ofNum raw.reg))
  | .btRmR => raw.onRm fun m => some (.btRmR p (m.map Reg.ofNum) (Reg.ofNum raw.reg))
  | .btRmImm8 => raw.onRm fun m => raw.onB fun v => some (.btRmImm8 p (m.map Reg.ofNum) v)
  | .btsRmR => raw.onRm fun m => some (.btsRmR p (m.map Reg.ofNum) (Reg.ofNum raw.reg))
  | .btsRmImm8 => raw.onRm fun m => raw.onB fun v => some (.btsRmImm8 p (m.map Reg.ofNum) v)
  | .btrRmR => raw.onRm fun m => some (.btrRmR p (m.map Reg.ofNum) (Reg.ofNum raw.reg))
  | .btrRmImm8 => raw.onRm fun m => raw.onB fun v => some (.btrRmImm8 p (m.map Reg.ofNum) v)
  | .btcRmR => raw.onRm fun m => some (.btcRmR p (m.map Reg.ofNum) (Reg.ofNum raw.reg))
  | .btcRmImm8 => raw.onRm fun m => raw.onB fun v => some (.btcRmImm8 p (m.map Reg.ofNum) v)

/-- The row of an instruction. -/
def Instr.form (i : Instr) : Form := i.parts.form

/-- The prefixes of an instruction (40_execution.md R161). -/
def Instr.prefixes (i : Instr) : Prefixes := i.parts.prefixes

/-- The raw operand fields of an instruction. -/
def Instr.raw (i : Instr) : Raw := i.parts.raw

/-- The mnemonic of an instruction (40_execution.md R161). -/
def Instr.mnemonic (i : Instr) : Mnemonic := i.form.row.mnemonic

/-- The operand width of an instruction, where it has one (R116; 40_execution.md R161). -/
def Instr.width (i : Instr) : Option Width := i.form.row.width i.prefixes

end Sys2Proof
end

