-- ==== Sys2Proof/WellFormed.lean ====
section
/-! DEFINITION. Which terms of `Instr` are instructions: those an admitted byte string decodes to (30_encoding.md R102 to R113). -/

namespace Sys2Proof

/-- No prefix is repeated and there is at most one segment override (R107). -/
def Prefixes.wf : Prefixes → Bool
  | [] => true
  | p :: ps => !(ps.any fun q => p.clash q) && Prefixes.wf ps

/-- The prefix `66` stands where the row wants it (R103). -/
def opsizeOk (r : Row) (p : Prefixes) : Bool :=
  match r.prefix66 with
  | .forbidden => !p.contains .opsize
  | .v => true
  | .required => p.contains .opsize

/-- LOCK stands only on a row that allows it, with a memory operand (R105). -/
def lockOk (r : Row) (p : Prefixes) (rm : Option (RM (BitVec 3))) : Bool :=
  !p.contains .lock || (r.lock && match rm with
    | some (.mem _) => true
    | _ => false)

/-- A memory form's registers are those its encoding can name (R110, R111): ESP is no index, and a base that the encoding
gives another reading is not written in that form. -/
def Mem.wf : Mem → Bool
  | .ind b => b != .esp && b != .ebp
  | .abs _ => true
  | .sib x b => x.index != some .esp && b != .ebp
  | .sibAbs x _ => x.index != some .esp
  | .disp8 b _ => b != .esp
  | .sibDisp8 x _ _ => x.index != some .esp
  | .disp32 b _ => b != .esp
  | .sibDisp32 x _ _ => x.index != some .esp

/-- The r/m operand is well formed. -/
def rmOk : Option (RM (BitVec 3)) → Bool
  | some (.mem m) => m.wf
  | _ => true

/-- The immediate has the size the row and the operand width give it (R113). -/
def immOk (k : ImmKind) (p : Prefixes) (v : Imm) : Bool :=
  match k, v with
  | .none, .none => true
  | .ib, .b _ => true
  | .iw, .w _ => true
  | .iz, .w _ => opWidth p == .w16
  | .iz, .d _ => opWidth p == .w32
  | .cb, .b _ => true
  | .cd, .d _ => true
  | .moffs, .d _ => true
  | _, _ => false

/-- A term is an instruction. -/
def Instr.wf (i : Instr) : Bool :=
  i.prefixes.wf && opsizeOk i.form.row i.prefixes && lockOk i.form.row i.prefixes i.raw.rm && rmOk i.raw.rm
    && immOk i.form.row.imm i.prefixes i.raw.imm

end Sys2Proof
end

