-- ==== Sys2Proof/Decode.lean ====
section
/-! DEFINITION. The decoder of 30_encoding.md R100 to R141, total on any bytes, and the encoder written from the same tables. -/

namespace Sys2Proof

/-- The two refusals of R140, by name. -/
inductive Reject
  /-- `InvalidOpcode`: "decoded mnemonic/operand encoding not representable" -/
  | invalidOpcode
  /-- `UnsupportedInstruction`: "recognized but no handler registered" -/
  | unsupportedInstruction
deriving DecidableEq, Repr

/-- What reading from a list of bytes gives: a value and the bytes after it, a verdict and the bytes after the byte that settled
it, or that the bytes end before anything is settled (R117). -/
inductive Parsed (α : Type)
  | got (a : α) (rest : List Byte)
  | refuse (v : Reject) (rest : List Byte)
  | more
deriving DecidableEq, Repr

/-- Read on after a value. -/
def Parsed.andThen {α β : Type} (x : Parsed α) (k : α → List Byte → Parsed β) : Parsed β :=
  match x with
  | .got a rest => k a rest
  | .refuse v rest => .refuse v rest
  | .more => .more

/-- Read one byte. -/
def takeByte : List Byte → Parsed Byte
  | [] => .more
  | b :: bs => .got b bs

/-- Read a two-byte little-endian field (R100). -/
def takeHalf : List Byte → Parsed (BitVec 16)
  | b0 :: b1 :: bs => .got (b1 ++ b0) bs
  | _ => .more

/-- Read a four-byte little-endian field (R100). -/
def takeWord : List Byte → Parsed Word
  | b0 :: b1 :: b2 :: b3 :: bs => .got (b3 ++ b2 ++ b1 ++ b0) bs
  | _ => .more

/-- The two bytes of a field, low byte first. -/
def halfBytes (v : BitVec 16) : List Byte := [v.extractLsb' 0 8, v.extractLsb' 8 8]

/-- The four bytes of a field, low byte first. -/
def wordBytes (v : Word) : List Byte :=
  [v.extractLsb' 0 8, v.extractLsb' 8 8, v.extractLsb' 16 8, v.extractLsb' 24 8]

/-- Read prefix bytes after those in `acc`, refusing as each is read, until a byte that is none (R102 to R107). -/
def readPrefixes (acc : Prefixes) : List Byte → Parsed Prefixes
  | [] => .more
  | b :: bs =>
    if refusedPrefix b then .refuse .unsupportedInstruction bs
    else
      match prefixOf b with
      | none => .got acc (b :: bs)
      | some q =>
        if acc.any fun p => p.clash q then .refuse .unsupportedInstruction bs else readPrefixes (acc ++ [q]) bs

/-- The fields of a ModR/M byte (R109). -/
def modOf (b : Byte) : BitVec 2 := b.extractLsb' 6 2
def regOf (b : Byte) : BitVec 3 := b.extractLsb' 3 3
def rmOf (b : Byte) : BitVec 3 := b.extractLsb' 0 3

/-- A ModR/M or SIB byte from its fields (R109, R111). -/
def modrmByte (md : BitVec 2) (reg rm : BitVec 3) : Byte := md ++ reg ++ rm

/-- The scale and index of a SIB byte; `index = 4` is no index (R111). -/
def sibOf (b : Byte) : Sib :=
  { scale := Scale.ofNum (modOf b), index := if regOf b = 4#3 then none else some (Reg.ofNum (regOf b)) }

/-- The index field of a SIB byte (R111). -/
def Sib.indexNum (x : Sib) : BitVec 3 :=
  match x.index with
  | none => 4#3
  | some r => r.num

/-- The r/m operand that a ModR/M byte announces: SIB byte and displacement as R110 and R111 ask. -/
def readRm (mb : Byte) (bs : List Byte) : Parsed (RM (BitVec 3)) :=
  if modOf mb = 3#2 then .got (.reg (rmOf mb)) bs
  else if rmOf mb = 4#3 then
    (takeByte bs).andThen fun sb bs =>
      if modOf mb = 0#2 then
        if rmOf sb = 5#3 then (takeWord bs).andThen fun d bs => .got (.mem (.sibAbs (sibOf sb) d)) bs
        else .got (.mem (.sib (sibOf sb) (Reg.ofNum (rmOf sb)))) bs
      else if modOf mb = 1#2 then
        (takeByte bs).andThen fun d bs => .got (.mem (.sibDisp8 (sibOf sb) (Reg.ofNum (rmOf sb)) d)) bs
      else (takeWord bs).andThen fun d bs => .got (.mem (.sibDisp32 (sibOf sb) (Reg.ofNum (rmOf sb)) d)) bs
  else if modOf mb = 0#2 then
    if rmOf mb = 5#3 then (takeWord bs).andThen fun d bs => .got (.mem (.abs d)) bs
    else .got (.mem (.ind (Reg.ofNum (rmOf mb)))) bs
  else if modOf mb = 1#2 then (takeByte bs).andThen fun d bs => .got (.mem (.disp8 (Reg.ofNum (rmOf mb)) d)) bs
  else (takeWord bs).andThen fun d bs => .got (.mem (.disp32 (Reg.ofNum (rmOf mb)) d)) bs

/-- The immediate of a row (R113). -/
def readImm (k : ImmKind) (p : Prefixes) (bs : List Byte) : Parsed Imm :=
  match k with
  | .none => .got .none bs
  | .ib => (takeByte bs).andThen fun v bs => .got (.b v) bs
  | .cb => (takeByte bs).andThen fun v bs => .got (.b v) bs
  | .iw => (takeHalf bs).andThen fun v bs => .got (.w v) bs
  | .iz =>
    if opWidth p = .w16 then (takeHalf bs).andThen fun v bs => .got (.w v) bs
    else (takeWord bs).andThen fun v bs => .got (.d v) bs
  | .cd => (takeWord bs).andThen fun v bs => .got (.d v) bs
  | .moffs => (takeWord bs).andThen fun v bs => .got (.d v) bs

/-- The verdict on an opcode that no row has (R140): `0F 0B` (UD2) is invalid, every other unsupported. -/
def opcodeVerdict (escape : Bool) (b : Byte) : Reject :=
  if escape && b == 0x0B#8 then .invalidOpcode else .unsupportedInstruction

/-- The verdict on a ModR/M digit that no row of the opcode has (R120, R140). -/
def digitVerdict (escape : Bool) (b : Byte) (digit : BitVec 3) : Reject :=
  if escape then if b == 0xBA#8 then .invalidOpcode else .unsupportedInstruction
  else if b == 0xFE#8 || b == 0xC6#8 || b == 0xC7#8 then .invalidOpcode
  else if b == 0xFF#8 && digit == 7#3 then .invalidOpcode
  else .unsupportedInstruction

/-- Whether a row is the one that the ModR/M digit and the prefix `66` select among the rows of its opcode (R103, R109). -/
def Row.selected (r : Row) (p : Prefixes) (mb : Byte) : Bool :=
  (match r.modrm with
    | .digit d => d == regOf mb
    | _ => true)
  && (r.prefix66 != .required || p.contains .opsize)

/-- The verdict on a selected row, if there is one: an absent tier (00_scope.md R12), `66` where it may not stand (R103), LOCK
where it may not stand (R105), a register where only memory may stand (R140), in that order (log entries 7, 8). -/
def Row.verdict (r : Row) (tierG : Bool) (p : Prefixes) (isReg : Bool) : Option Reject :=
  if r.tier == .G && !tierG then some .unsupportedInstruction
  else if r.prefix66 == .forbidden && p.contains .opsize then some .unsupportedInstruction
  else if p.contains .lock && !(r.lock && !isReg) then some .invalidOpcode
  else if r.memOnly && isReg then some .invalidOpcode
  else none

/-- Put the parts together; parts that no constructor has are unsupported (40_execution.md R178; no row gives such parts). -/
def finish (x : Parts) (bs : List Byte) : Parsed Instr :=
  match x.build with
  | some i => .got i bs
  | none => .refuse .unsupportedInstruction bs

/-- The register number in the low bits of a `+r` opcode; other rows have none (R108). -/
def plusReg (f : Form) (b : Byte) : BitVec 3 := if f.row.mask = 0xF8#8 then rmOf b else 0#3

/-- Whether the rows of an opcode have a ModR/M byte (R117). -/
def Row.hasModrm (r : Row) : Bool := r.modrm != .none

/-- Decode from the opcode on: row, ModR/M, SIB, displacement, immediate, in the order of R117. -/
def decodeOpcode (tierG : Bool) (p : Prefixes) (escape : Bool) (b : Byte) (bs : List Byte) : Parsed Instr :=
  match formsAt escape b with
  | [] => .refuse (opcodeVerdict escape b) bs
  | f0 :: fs =>
    if f0.row.hasModrm then
      (takeByte bs).andThen fun mb bs =>
        match (f0 :: fs).find? fun f => f.row.selected p mb with
        | none => .refuse (digitVerdict escape b (regOf mb)) bs
        | some f =>
          match f.row.verdict tierG p (modOf mb == 3#2) with
          | some v => .refuse v bs
          | none =>
            (readRm mb bs).andThen fun rm bs =>
              (readImm f.row.imm p bs).andThen fun v bs =>
                finish ⟨f, p, ⟨if f.row.modrm = .slashR then regOf mb else 0#3, some rm, v⟩⟩ bs
    else
      match (f0 :: fs).find? fun f => f.row.selected p 0#8 with
      | none => .refuse .unsupportedInstruction bs
      | some f =>
        match f.row.verdict tierG p true with
        | some v => .refuse v bs
        | none => (readImm f.row.imm p bs).andThen fun v bs => finish ⟨f, p, ⟨plusReg f b, none, v⟩⟩ bs

/-- The decoder (R117), with the parameter ADMIT_TIER_G. -/
def decodeWith (tierG : Bool) (bs : List Byte) : Parsed Instr :=
  (readPrefixes [] bs).andThen fun p bs =>
    (takeByte bs).andThen fun b bs =>
      if b = 0x0F#8 then (takeByte bs).andThen fun b2 bs => decodeOpcode tierG p true b2 bs
      else decodeOpcode tierG p false b bs

/-- The decoder at the default parameters. -/
def decode (bs : List Byte) : Parsed Instr := decodeWith Config.std.admitTierG bs

/-! ## The encoder -/

/-- ModR/M, SIB and displacement of an r/m operand, with the `reg` field (R109 to R112). -/
def rmBytes (reg : BitVec 3) : RM (BitVec 3) → List Byte
  | .reg k => [modrmByte 3#2 reg k]
  | .mem (.ind b) => [modrmByte 0#2 reg b.num]
  | .mem (.abs d) => modrmByte 0#2 reg 5#3 :: wordBytes d
  | .mem (.sib x b) => [modrmByte 0#2 reg 4#3, modrmByte x.scale.num x.indexNum b.num]
  | .mem (.sibAbs x d) => modrmByte 0#2 reg 4#3 :: modrmByte x.scale.num x.indexNum 5#3 :: wordBytes d
  | .mem (.disp8 b d) => [modrmByte 1#2 reg b.num, d]
  | .mem (.sibDisp8 x b d) => [modrmByte 1#2 reg 4#3, modrmByte x.scale.num x.indexNum b.num, d]
  | .mem (.disp32 b d) => modrmByte 2#2 reg b.num :: wordBytes d
  | .mem (.sibDisp32 x b d) => modrmByte 2#2 reg 4#3 :: modrmByte x.scale.num x.indexNum b.num :: wordBytes d

/-- The bytes of an immediate field (R113). -/
def immBytes : Imm → List Byte
  | .none => []
  | .b v => [v]
  | .w v => halfBytes v
  | .d v => wordBytes v

/-- The opcode byte or bytes of a row, with the register number of a `+r` row (R108). -/
def opcodeBytes (r : Row) (reg : BitVec 3) : List Byte :=
  let b := if r.mask = 0xF8#8 then r.code ||| reg.setWidth 8 else r.code
  if r.escape then [0x0F#8, b] else [b]

/-- The `reg` field of a row's ModR/M byte: the digit, or the register operand (R109). -/
def Row.regField (r : Row) (reg : BitVec 3) : BitVec 3 :=
  match r.modrm with
  | .digit d => d
  | _ => reg

/-- The ModR/M byte and what it asks for, where the row has one. -/
def modrmBytes (r : Row) (x : Raw) : List Byte :=
  match x.rm with
  | some m => rmBytes (r.regField x.reg) m
  | none => []

/-- The bytes of an instruction, in the order of R100. -/
def encode (i : Instr) : List Byte :=
  i.prefixes.map Prefix.byte ++ (opcodeBytes i.form.row i.raw.reg ++ (modrmBytes i.form.row i.raw ++ immBytes i.raw.imm))

/-- The length of an instruction: "the number of bytes read" (R117; 40_execution.md R161). -/
def Instr.length (i : Instr) : Nat := (encode i).length

/-! ## The opcode table's numbering -/

/-- The longest byte string laid out for a table word: MAX_INSN_LEN bytes (00_scope.md R14). -/
def tableBytes (nbits w : Nat) : List Byte :=
  (List.range Config.std.maxInsnLen).map fun k => BitVec.ofNat 8 ((w % 2 ^ nbits) / 256 ^ k)

/-- The instruction the decoder reads from bits numbered as spec/opcode_table.json numbers them: the first byte is bits 7..0. -/
def decodeTableWord (nbits w : Nat) : Option Instr :=
  match decode (tableBytes nbits w) with
  | .got i _ => some i
  | _ => none

end Sys2Proof
end

