-- ==== Sys2Proof/Machine/State.lean ====
section
/-! DEFINITION. The architectural state, field for field as 10_state.md R45 lists it, the reasons a step can stop
(60_exceptions.md R440), and the state after reset. -/

namespace Sys2Proof.Machine

/-- The register file: one 32-bit cell for each general register (10_state.md R30). -/
structure RegFile where
  eax : Word
  ecx : Word
  edx : Word
  ebx : Word
  esp : Word
  ebp : Word
  esi : Word
  edi : Word
deriving DecidableEq, Repr

/-- The permission set of a mapping (20_memory.md R60). -/
structure Perm where
  read : Bool
  write : Bool
  execute : Bool
deriving DecidableEq, Repr

/-- A mapped region [start, start + size) (20_memory.md R60). -/
structure Mapping where
  start : Nat
  size : Nat
  perm : Perm
deriving DecidableEq, Repr

/-- The bytes of memory: addresses strictly rising, no entry equal to what an unlisted address reads as (log entry 2). -/
abbrev Memory := List Host.Cell

/-- The AddressSpace: the mappings in start order and the byte at every address (20_memory.md R60). -/
structure AddressSpace where
  maps : List Mapping
  bytes : Memory
deriving DecidableEq, Repr

/-- The complete architectural state of one CPU instance (10_state.md R45; `mem` is the rule's field `as`). -/
structure State where
  regs : RegFile
  eip : Word
  flags : Flags
  mem : AddressSpace
deriving DecidableEq, Repr

/-- The kinds of a memory fault (60_exceptions.md R440). -/
inductive MemKind
  /-- the byte lies in no mapping -/
  | unmapped
  /-- a mapping holds the byte and lacks the permission -/
  | permissionDenied
  /-- named by the source and never raised (60_exceptions.md R444; 90_conflicts.md C3) -/
  | misaligned
deriving DecidableEq, Repr

/-- The faults of `execute()` (60_exceptions.md R440, R444). A fault ends the call and is the whole report: the state stays what
it was before the call (R446), and the core enters no handler (R447), so each is safe. -/
inductive Fault
  /-- Raised by fetch, by operand and implicit reads and by the validation of staged writes; carries the first failing byte's
  address, which may be 2^32 or above. Safe. -/
  | memoryFault (kind : MemKind) (address : Nat)
  /-- Raised by decode, for the first list of 30_encoding.md R140; carries EIP and the bytes up to the verdict. Safe. -/
  | invalidOpcode (eip : Word) (bytes : List Byte)
  /-- Raised by decode, for the second list of 30_encoding.md R140; carries EIP and the bytes up to the verdict. Safe. -/
  | unsupportedInstruction (eip : Word) (bytes : List Byte)
  /-- Raised by DIV, IDIV and AAM (60_exceptions.md R442); carries EIP. Safe. -/
  | divideError (eip : Word)
deriving DecidableEq, Repr

/-- The reasons the model itself turns something away. -/
inductive Refusal
  /-- Raised by an arm of `exec` whose instruction has no meaning yet (none has, in this model). Safe. -/
  | notModelled (mnemonic : String)
  /-- Raised by `launch` on a launch state that breaks the invariants of 70_reset_and_hazards.md R472; never by a step. Safe. -/
  | brokenLaunch
deriving DecidableEq, Repr

/-- What one `execute()` call gives. -/
abbrev StepResult := Host.Outcome State Fault Refusal

/-- The state after reset. The spec has no reset: every value is a launch parameter (10_state.md R46; 70_reset_and_hazards.md R470,
R471). DESIGN CHOICE (log entries 1, 2): registers, EIP and flags 0, no mapping, no byte listed. -/
def State.reset : State :=
  { regs := { eax := 0#32, ecx := 0#32, edx := 0#32, ebx := 0#32, esp := 0#32, ebp := 0#32, esi := 0#32, edi := 0#32 }
    eip := 0#32
    flags := { CF := false, PF := false, AF := false, ZF := false, SF := false, OF := false, DF := false }
    mem := { maps := [], bytes := [] } }

end Sys2Proof.Machine
end

