-- ==== Sys2Proof/Machine/Ops.lean ====
section
/-! DEFINITION. The named operations on registers, flags and memory, the effect record of a handler, and the one place where an
instruction is validated, committed or faulted (10_state.md R31 to R34; 20_memory.md R60 to R72; 40_execution.md R160 to R177). -/

namespace Sys2Proof.Machine

/-! ## Registers and their views -/

/-- `x[i]` (00_scope.md R17). -/
def RegFile.get (x : RegFile) : Reg → Word
  | .eax => x.eax
  | .ecx => x.ecx
  | .edx => x.edx
  | .ebx => x.ebx
  | .esp => x.esp
  | .ebp => x.ebp
  | .esi => x.esi
  | .edi => x.edi

/-- `x[i] <- v` (00_scope.md R17). -/
def RegFile.set (x : RegFile) (r : Reg) (v : Word) : RegFile :=
  match r with
  | .eax => { x with eax := v }
  | .ecx => { x with ecx := v }
  | .edx => { x with edx := v }
  | .ebx => { x with ebx := v }
  | .esp => { x with esp := v }
  | .ebp => { x with ebp := v }
  | .esi => { x with esi := v }
  | .edi => { x with edi := v }

/-- The register views by width (10_state.md R31): 8-bit low and high views, 16-bit views, whole cells. -/
inductive View : Width → Type
  | b (r : Reg8) : View .w8
  | w (r : Reg) : View .w16
  | d (r : Reg) : View .w32
deriving DecidableEq, Repr

/-- The cell an 8-bit view lies in (10_state.md R32). -/
def cellOf8 : Reg8 → Reg
  | .al => .eax
  | .cl => .ecx
  | .dl => .edx
  | .bl => .ebx
  | .ah => .eax
  | .ch => .ecx
  | .dh => .edx
  | .bh => .ebx

/-- Whether an 8-bit view is bits 15:8 of its cell (10_state.md R32). -/
def isHigh8 : Reg8 → Bool
  | .al => false
  | .cl => false
  | .dl => false
  | .bl => false
  | .ah => true
  | .ch => true
  | .dh => true
  | .bh => true

/-- The cell a view lies in (10_state.md R31). -/
def View.cell {w : Width} : View w → Reg
  | .b r => cellOf8 r
  | .w r => r
  | .d r => r

/-- The view a register field names at a width (10_state.md R32). -/
def viewOfNum (w : Width) (k : BitVec 3) : View w :=
  match w with
  | .w8 => .b (Reg8.ofNum k)
  | .w16 => .w (Reg.ofNum k)
  | .w32 => .d (Reg.ofNum k)

/-- `rd` (10_state.md R34). -/
def RegFile.readView {w : Width} (x : RegFile) : View w → BitVec w.bits
  | .b r => if isHigh8 r then (x.get (cellOf8 r)).extractLsb' 8 8 else (x.get (cellOf8 r)).extractLsb' 0 8
  | .w r => (x.get r).extractLsb' 0 16
  | .d r => x.get r

/-- `wr` (10_state.md R33): a narrower view keeps every bit of its cell outside the view. -/
def RegFile.writeView {w : Width} (x : RegFile) : View w → BitVec w.bits → RegFile
  | .b r, v =>
    let c := x.get (cellOf8 r)
    if isHigh8 r then x.set (cellOf8 r) (c.extractLsb' 16 16 ++ v ++ c.extractLsb' 0 8)
    else x.set (cellOf8 r) (c.extractLsb' 8 24 ++ v)
  | .w r, v => x.set r ((x.get r).extractLsb' 16 16 ++ v)
  | .d r, v => x.set r v

/-! ## Flags -/

/-- One flag (10_state.md R39). -/
def getFlag (x : Flags) : Flag → Bool
  | .CF => x.CF
  | .PF => x.PF
  | .AF => x.AF
  | .ZF => x.ZF
  | .SF => x.SF
  | .OF => x.OF
  | .DF => x.DF

/-- `F <- b` for one flag; the other six keep their values (10_state.md R39). -/
def setFlag (x : Flags) (f : Flag) (b : Bool) : Flags :=
  match f with
  | .CF => { x with CF := b }
  | .PF => { x with PF := b }
  | .AF => { x with AF := b }
  | .ZF => { x with ZF := b }
  | .SF => { x with SF := b }
  | .OF => { x with OF := b }
  | .DF => { x with DF := b }

/-! ## Memory -/

/-- The byte at an address; an address that is not listed holds `Config.unlistedByte` (log entry 2). -/
def Memory.read : Memory → Nat → Byte
  | [], _ => Config.unlistedByte
  | c :: cs, a => if c.1 = a then c.2 else Memory.read cs a

/-- The memory without an entry for an address. -/
def Memory.erase (m : Memory) (a : Nat) : Memory := m.filter fun c => c.1 != a

/-- The memory with an entry more, in address order. -/
def Memory.insert : Memory → Nat → Byte → Memory
  | [], a, v => [(a, v)]
  | c :: cs, a, v => if a < c.1 then (a, v) :: c :: cs else c :: Memory.insert cs a v

/-- Store one byte, keeping the canonical form: what an unlisted address reads as is not listed. -/
def Memory.write (m : Memory) (a : Nat) (v : Byte) : Memory :=
  if v = Config.unlistedByte then Memory.erase m a else Memory.insert (Memory.erase m a) a v

/-- The canonical form: addresses strictly rising, no entry that an unlisted address reads as anyway. -/
def Memory.wf : Memory → Bool
  | [] => true
  | c :: cs => (c.2 != Config.unlistedByte) && (cs.all fun d => decide (c.1 < d.1)) && Memory.wf cs

/-- The little-endian value of the `n` bytes at `a` (20_memory.md R66). -/
def Memory.readLE (m : Memory) (a : Nat) : Nat → Nat
  | 0 => 0
  | n + 1 => (Memory.read m a).toNat + 256 * Memory.readLE m (a + 1) n

/-- Store the low `n` bytes of `v` at `a`, little-endian (20_memory.md R66). -/
def Memory.writeLE (m : Memory) (a : Nat) : Nat → Nat → Memory
  | 0, _ => m
  | n + 1, v => Memory.writeLE (Memory.write m a (BitVec.ofNat 8 v)) (a + 1) n (v / 256)

/-- The accesses and the permission each needs (20_memory.md R68). -/
inductive Access
  | read
  | write
  | execute
deriving DecidableEq, Repr

/-- Whether a permission set holds the permission an access needs. -/
def Perm.allows (p : Perm) : Access → Bool
  | .read => p.read
  | .write => p.write
  | .execute => p.execute

/-- Whether a mapping contains a byte address (20_memory.md R63). -/
def Mapping.contains (m : Mapping) (a : Nat) : Bool := decide (m.start ≤ a) && decide (a < m.start + m.size)

/-- Whether some mapping contains a byte address. -/
def AddressSpace.mapped (x : AddressSpace) (a : Nat) : Bool := x.maps.any fun m => m.contains a

/-- Byte admission (20_memory.md R63). -/
def AddressSpace.admits (x : AddressSpace) (k : Access) (a : Nat) : Bool :=
  x.maps.any fun m => m.contains a && m.perm.allows k

/-- The fault of a byte that is not admitted (20_memory.md R64). -/
def AddressSpace.faultAt (x : AddressSpace) (a : Nat) : Fault :=
  if x.mapped a then .memoryFault .permissionDenied a else .memoryFault .unmapped a

/-- The check of the `n` bytes at `a`, in ascending order and not wrapped: the first that is not admitted is the fault
(20_memory.md R64, R65). -/
def AddressSpace.check (x : AddressSpace) (k : Access) (a : Nat) : Nat → Option Fault
  | 0 => none
  | n + 1 => if x.admits k a then AddressSpace.check x k (a + 1) n else some (x.faultAt a)

/-- `MemRead(addr, w/8)` (20_memory.md R64). -/
def memRead (x : AddressSpace) (w : Width) (a : Word) : Except Fault (BitVec w.bits) :=
  match x.check .read a.toNat w.bytes with
  | some f => .error f
  | none => .ok (BitVec.ofNat w.bits (Memory.readLE x.bytes a.toNat w.bytes))

/-- The launch invariants of one mapping (70_reset_and_hazards.md R472; 20_memory.md R62). -/
def Mapping.wf (pageSize : Nat) (m : Mapping) : Bool :=
  decide (0 < m.size) && decide (m.start % pageSize = 0) && decide (m.size % pageSize = 0)
    && decide (m.start + m.size ≤ 2 ^ 32)

/-- Mappings well formed, in start order and disjoint (20_memory.md R60; 70_reset_and_hazards.md R472). -/
def mapsWf (pageSize : Nat) : List Mapping → Bool
  | [] => true
  | m :: ms => m.wf pageSize && (ms.all fun n => decide (m.start + m.size ≤ n.start)) && mapsWf pageSize ms

/-- A well-formed address space: mappings as R472 asks, memory in canonical form, every listed address inside [0, 2^32). -/
def AddressSpace.wf (pageSize : Nat) (x : AddressSpace) : Bool :=
  mapsWf pageSize x.maps && Memory.wf x.bytes && x.bytes.all fun c => decide (c.1 < 2 ^ 32)

/-! ## Effects, validation, commit -/

/-- One staged register write (40_execution.md R174). -/
structure RegWrite where
  width : Width
  view : View width
  value : BitVec width.bits

/-- One staged memory write of `size` bytes (40_execution.md R174). -/
structure MemWrite where
  addr : Nat
  size : Nat
  value : Nat
deriving DecidableEq, Repr

/-- The effect record of a handler (40_execution.md R174). -/
structure Effect where
  regs : List RegWrite := []
  mems : List MemWrite := []
  flags : List (Flag × Bool) := []
  ip : Option Word := none

/-- A handler: a pure function of the pre-state and `next_ip` that gives a fault or an effect record (40_execution.md R174). -/
abbrev Handler := State → Word → Except Fault Effect

/-- The same effect with flag writes after those it has. -/
def Effect.withFlags (e : Effect) (fs : List (Flag × Bool)) : Effect := { e with flags := e.flags ++ fs }

/-- The validation of the staged memory writes, in staged order (40_execution.md R175). -/
def validate (x : AddressSpace) : List MemWrite → Option Fault
  | [] => none
  | m :: ms =>
    match x.check .write m.addr m.size with
    | some f => some f
    | none => validate x ms

/-- The register writes in staged order (40_execution.md R175). -/
def commitRegs (x : RegFile) (ws : List RegWrite) : RegFile := ws.foldl (fun y w => y.writeView w.view w.value) x

/-- The memory writes in staged order (40_execution.md R175). -/
def commitMems (m : Memory) (ws : List MemWrite) : Memory := ws.foldl (fun y w => Memory.writeLE y w.addr w.size w.value) m

/-- The flag writes (40_execution.md R175). -/
def commitFlags (x : Flags) (fs : List (Flag × Bool)) : Flags := fs.foldl (fun y f => setFlag y f.1 f.2) x

/-- The commit, with the instruction-pointer advance after it (40_execution.md R175, R176). -/
def commit (s : State) (e : Effect) (nextIp : Word) : State :=
  { regs := commitRegs s.regs e.regs
    eip := e.ip.getD nextIp
    flags := commitFlags s.flags e.flags
    mem := { s.mem with bytes := commitMems s.mem.bytes e.mems } }

/-- `raise F`: the fault ends the call and is the whole report. The core saves nothing, changes no mode and enters no handler, and
there is no return from one (60_exceptions.md R446 to R448): the state before the call stays the state. -/
def raise (f : Fault) : StepResult := .fault f

/-- `next_ip` (40_execution.md R162), modulo 2^32 (10_state.md R38). -/
def nextIp (i : Instr) (s : State) : Word := s.eip + BitVec.ofNat 32 i.length

/-- The stages of `execute()` after decode: handle, validate, commit, advance (40_execution.md R160). -/
def perform (i : Instr) (h : Handler) (s : State) : StepResult :=
  match h s (nextIp i s) with
  | .error f => raise f
  | .ok e =>
    match validate s.mem e.mems with
    | some f => raise f
    | none => .next (commit s e (nextIp i s))

end Sys2Proof.Machine
end

