-- ==== Sys2Proof/Machine/Flags.lean ====
section
/-! DEFINITION. The flag computations (40_execution.md R170 to R173), the flags the spec leaves undefined (00_scope.md R13) and the
condition predicates (46_conditional_move.md R320). -/

namespace Sys2Proof.Machine

/-- `PF`: an even number of 1 bits in the low byte (40_execution.md R170). -/
def parityFlag {n : Nat} (r : BitVec n) : Bool := ((List.range 8).countP fun i => r.getLsbD i) % 2 == 0

/-- `SF`, `ZF`, `PF` of a result (40_execution.md R170). -/
def resultFlags {n : Nat} (r : BitVec n) : List (Flag × Bool) :=
  [(.SF, r.msb), (.ZF, r == 0#n), (.PF, parityFlag r)]

/-- A result with the flags of an addition or subtraction other than `SF`, `ZF`, `PF`. -/
structure Sum (n : Nat) where
  value : BitVec n
  carry : Bool
  overflow : Bool
  adjust : Bool
deriving DecidableEq, Repr

/-- `ADDF` (40_execution.md R171). -/
def addF {n : Nat} (a b : BitVec n) (c : Bool) : Sum n :=
  let t := a.toNat + b.toNat + c.toNat
  let r := BitVec.ofNat n t
  { value := r
    carry := decide (2 ^ n ≤ t)
    overflow := a.msb == b.msb && r.msb != a.msb
    adjust := (a ^^^ b ^^^ r).getLsbD 4 }

/-- `SUBF` (40_execution.md R172). -/
def subF {n : Nat} (a b : BitVec n) (c : Bool) : Sum n :=
  let t : Int := (a.toNat : Int) - (b.toNat : Int) - (c.toNat : Int)
  let r := BitVec.ofInt n t
  { value := r
    carry := decide (a.toNat < b.toNat + c.toNat)
    overflow := a.msb != b.msb && r.msb != a.msb
    adjust := (a ^^^ b ^^^ r).getLsbD 4 }

/-- The six status flags of a sum, `CF` among them. -/
def Sum.flags {n : Nat} (x : Sum n) : List (Flag × Bool) :=
  [(.CF, x.carry), (.OF, x.overflow), (.AF, x.adjust)] ++ resultFlags x.value

/-- The five flags INC and DEC write: not `CF` (41_arithmetic.md R204, R205). -/
def Sum.flagsKeepCarry {n : Nat} (x : Sum n) : List (Flag × Bool) :=
  [(.OF, x.overflow), (.AF, x.adjust)] ++ resultFlags x.value

/-- `LOGICF`: `AF` is not written (40_execution.md R173). -/
def logicFlags {n : Nat} (r : BitVec n) : List (Flag × Bool) := [(.CF, false), (.OF, false)] ++ resultFlags r

/-- The value of a flag the spec leaves undefined: the draw `UNDEF` at its key (00_scope.md R13; 40_execution.md R174). -/
def undefFlag (m : Mnemonic) (w : Option Width) (operands : List Nat) (before : Flags) (f : Flag) : Bool :=
  Config.undef { mnemonic := m, width := w, flag := f, operands := operands, flags := before }

/-- Flags written with `UNDEF`. -/
def undefFlags (m : Mnemonic) (w : Option Width) (operands : List Nat) (before : Flags) (fs : List Flag) : List (Flag × Bool) :=
  fs.map fun f => (f, undefFlag m w operands before f)

/-- `pred(cc)` (46_conditional_move.md R320). -/
def pred (x : Flags) : Cond → Bool
  | .O => x.OF
  | .NO => !x.OF
  | .B => x.CF
  | .AE => !x.CF
  | .E => x.ZF
  | .NE => !x.ZF
  | .BE => x.CF || x.ZF
  | .A => !x.CF && !x.ZF
  | .S => x.SF
  | .NS => !x.SF
  | .P => x.PF
  | .NP => !x.PF
  | .L => x.SF != x.OF
  | .GE => x.SF == x.OF
  | .LE => x.ZF || (x.SF != x.OF)
  | .G => !x.ZF && (x.SF == x.OF)

end Sys2Proof.Machine
end

