-- ==== Sys2Proof/Machine/Operands.lean ====
section
/-! DEFINITION. Operands: effective addresses (40_execution.md R167), places and operands of a width (R161), reading and staging
them (R163, R164), and the operand list a row's format gives (30_encoding.md R115). -/

namespace Sys2Proof.Machine

/-- `ea_expr` (40_execution.md R161). -/
structure EaExpr where
  base : Option Reg
  index : Option Reg
  scale : Scale
  disp : Word
deriving DecidableEq, Repr

/-- The effective address, modulo 2^32, on the pre-instruction cells (40_execution.md R167). -/
def EaExpr.address (e : EaExpr) (x : RegFile) : Word :=
  (match e.base with
    | some r => x.get r
    | none => 0#32)
  + (match e.index with
    | some r => x.get r
    | none => 0#32) * e.scale.factor
  + e.disp

/-- The expression of a memory form: which components are present (30_encoding.md R110, R111), disp8 sign-extended (R112). -/
def eaOf : Mem → EaExpr
  | .ind b => { base := some b, index := none, scale := .x1, disp := 0#32 }
  | .abs d => { base := none, index := none, scale := .x1, disp := d }
  | .sib x b => { base := some b, index := x.index, scale := x.scale, disp := 0#32 }
  | .sibAbs x d => { base := none, index := x.index, scale := x.scale, disp := d }
  | .disp8 b d => { base := some b, index := none, scale := .x1, disp := d.signExtend 32 }
  | .sibDisp8 x b d => { base := some b, index := x.index, scale := x.scale, disp := d.signExtend 32 }
  | .disp32 b d => { base := some b, index := none, scale := .x1, disp := d }
  | .sibDisp32 x b d => { base := some b, index := x.index, scale := x.scale, disp := d }

/-- The expression of a `moffs` operand (30_encoding.md R113; 40_execution.md R168). -/
def eaAbs (d : Word) : EaExpr := { base := none, index := none, scale := .x1, disp := d }

/-- An operand that can be a destination: `Register(id, w)` or `Memory(ea_expr, w)` (40_execution.md R161). -/
inductive Place (w : Width)
  | reg (v : View w)
  | mem (e : EaExpr)
deriving DecidableEq, Repr

/-- An operand of width w (40_execution.md R161). "An Immediate is never a destination" (R164), so it is no place. -/
inductive Operand (w : Width)
  | place (p : Place w)
  | imm (v : BitVec w.bits)
deriving DecidableEq, Repr

/-- Read a place (40_execution.md R163). -/
def readPlace {w : Width} (s : State) : Place w → Except Fault (BitVec w.bits)
  | .reg v => .ok (s.regs.readView v)
  | .mem e => memRead s.mem w (e.address s.regs)

/-- Read an operand (40_execution.md R163). -/
def readOperand {w : Width} (s : State) : Operand w → Except Fault (BitVec w.bits)
  | .place p => readPlace s p
  | .imm v => .ok v

/-- Stage a write to a place, at the address the pre-state gives (40_execution.md R164, R165). -/
def stage {w : Width} (s : State) (p : Place w) (v : BitVec w.bits) : Effect :=
  match p with
  | .reg x => { regs := [⟨w, x, v⟩] }
  | .mem e => { mems := [{ addr := (e.address s.regs).toNat, size := w.bytes, value := v.toNat }] }

/-! ## Operands of the constructors -/

/-- The view a register operand names at the operand width of its row (10_state.md R32). -/
def regView (w : Width) (r : Reg) : View w := viewOfNum w r.num

/-- The r/m operand of width 8 (30_encoding.md R110). -/
def rmPlace8 : RM Reg8 → Place .w8
  | .reg r => .reg (.b r)
  | .mem m => .mem (eaOf m)

/-- The r/m operand of width w (30_encoding.md R110). -/
def rmPlace (w : Width) : RM Reg → Place w
  | .reg r => .reg (regView w r)
  | .mem m => .mem (eaOf m)

/-- An `iz` immediate at the operand width (30_encoding.md R113); log entry 12 says what an ill-formed one gives. -/
def immZ (w : Width) : ImmZ → BitVec w.bits
  | .i16 v => v.setWidth w.bits
  | .i32 v => v.setWidth w.bits

/-- The accumulator AL, AX or EAX (30_encoding.md R115). -/
def accum (w : Width) : View w := viewOfNum w 0#3

/-! ## The operand list of a row's format -/

/-- The operand lists of R115, by shape. -/
inductive Operands
  | none
  /-- M, O -/
  | one {w : Width} (dst : Place w)
  /-- MR, RM, MI, I, OI, FD, TD -/
  | two {w : Width} (dst : Place w) (src : Operand w)
  /-- M1, MC, and MI with a count or bit index: the second operand is a byte -/
  | byteSrc {w : Width} (dst : Place w) (src : Operand .w8)
  /-- RM of MOVZX and MOVSX: the source has the row's `src_width` -/
  | widen {v w : Width} (dst : Place w) (src : Place v)
  /-- RMI -/
  | three {w : Width} (dst : Place w) (src : Place w) (imm : Operand w)
  /-- IB, IW: an immediate alone, of width 8 or 16 -/
  | imm {w : Width} (v : BitVec w.bits)
  /-- D: a relative displacement, sign-extended (R113); `relTarget` resolves it (R114) -/
  | target (disp : Word)
deriving Repr

/-- The r/m operand of a width from the raw fields (30_encoding.md R110). -/
def rawPlace (w : Width) : RM (BitVec 3) → Place w
  | .reg k => .reg (viewOfNum w k)
  | .mem m => .mem (eaOf m)

/-- The immediate at the operand width, extended as R113 says: sign-extended where it is the `ib` of a wider row. -/
def rawImm (w : Width) : Imm → BitVec w.bits
  | .none => 0#w.bits
  | .b v => v.signExtend w.bits
  | .w v => v.setWidth w.bits
  | .d v => v.setWidth w.bits

/-- The relative displacement, sign-extended to 32 bits (30_encoding.md R113, R114). -/
def rawRel : Imm → Word
  | .none => 0#32
  | .b v => v.signExtend 32
  | .w v => v.signExtend 32
  | .d v => v

/-- The mnemonics whose MI immediate is a count or a bit index, zero-extended (30_encoding.md R113). -/
def takesByteImm (m : Mnemonic) : Bool :=
  m == .ROL || m == .ROR || m == .RCL || m == .RCR || m == .SHL || m == .SHR || m == .SAR
    || m == .BT || m == .BTS || m == .BTR || m == .BTC

/-- The operands of a row of width w with its r/m operand, by format (30_encoding.md R115). -/
def rowOperands (r : Row) (w : Width) (x : Raw) : Operands :=
  let rm : Place w := rawPlace w (x.rm.getD (.reg 0#3))
  let reg : Place w := .reg (viewOfNum w x.reg)
  match r.format with
  | .MR => .two rm (.place reg)
  | .RM =>
    match r.srcWidth with
    | some v => .widen reg (rawPlace v (x.rm.getD (.reg 0#3)))
    | none => .two reg (.place rm)
  | .MI => if takesByteImm r.mnemonic then .byteSrc rm (.imm (rawImm .w8 x.imm)) else .two rm (.imm (rawImm w x.imm))
  | .M => .one rm
  | .M1 => .byteSrc rm (.imm 1#8)
  | .MC => .byteSrc rm (.place (.reg (.b .cl)))
  | .I => .two (.reg (accum w)) (.imm (rawImm w x.imm))
  | .O => .one reg
  | .OI => .two reg (.imm (rawImm w x.imm))
  | .RMI => .three reg rm (.imm (rawImm w x.imm))
  | .FD => .two (.reg (accum w)) (.place (.mem (eaAbs (rawRel x.imm))))
  | .TD => .two (.mem (eaAbs (rawRel x.imm))) (.place (.reg (accum w)))
  | .D => .target (rawRel x.imm)
  | .IB => .imm (rawImm .w8 x.imm)
  | .IW => .imm (rawImm .w16 x.imm)
  | .ZO => .none

/-- The operand list of an instruction (30_encoding.md R115; 40_execution.md R161). A row without a width has no operand that
needs one. -/
def operandsOf (i : Instr) : Operands := rowOperands i.form.row (i.width.getD .w32) i.raw

/-- A relative target: `next_ip` plus the sign-extended displacement, modulo 2^32 (30_encoding.md R114). -/
def relTarget (next disp : Word) : Word := next + disp

/-- `Operand` of 40_execution.md R161, of any width: `Register(id, width)`, `Immediate(value, width)`, `Memory(ea_expr, width)`. -/
structure SizedOperand where
  width : Width
  operand : Operand width
deriving DecidableEq, Repr

/-- The operand list, destination first, with a relative target resolved to `Immediate(target, 32)` (30_encoding.md R114, R115). -/
def Operands.list (o : Operands) (next : Word) : List SizedOperand :=
  match o with
  | .none => []
  | .one d => [⟨_, .place d⟩]
  | .two d x => [⟨_, .place d⟩, ⟨_, x⟩]
  | .byteSrc d x => [⟨_, .place d⟩, ⟨.w8, x⟩]
  | .widen d x => [⟨_, .place d⟩, ⟨_, .place x⟩]
  | .three d x v => [⟨_, .place d⟩, ⟨_, .place x⟩, ⟨_, v⟩]
  | .imm v => [⟨_, .imm v⟩]
  | .target disp => [⟨.w32, .imm (relTarget next disp)⟩]

/-- The decoded descriptor (40_execution.md R161; 30_encoding.md R101; 90_conflicts.md C4). -/
structure Descriptor where
  mnemonic : Mnemonic
  width : Option Width
  operands : List SizedOperand
  length : Nat
  prefixes : Prefixes
deriving DecidableEq, Repr

/-- The descriptor of an instruction whose first byte is at `eip`. -/
def descriptorOf (i : Instr) (eip : Word) : Descriptor :=
  { mnemonic := i.mnemonic
    width := i.width
    operands := (operandsOf i).list (eip + BitVec.ofNat 32 i.length)
    length := i.length
    prefixes := i.prefixes }

end Sys2Proof.Machine
end

