-- ==== Sys2Proof/Machine/Handlers.lean ====
section
/-! DEFINITION. The handler shapes that several instructions share (40_execution.md R163 to R166, R174). -/

namespace Sys2Proof.Machine

/-- Read dst and src, write a result to dst, write flags: the read-modify-write and register forms (41_arithmetic.md R200). -/
def binary {w : Width} (f : BitVec w.bits → BitVec w.bits → Flags → BitVec w.bits × List (Flag × Bool))
    (dst : Place w) (src : Operand w) : Handler := fun s _ => do
  let a ← readPlace s dst
  let b ← readOperand s src
  .ok ((stage s dst (f a b s.flags).1).withFlags (f a b s.flags).2)

/-- Read dst and src and write only flags (41_arithmetic.md R203; 42_logical.md R233). -/
def compare {w : Width} (f : BitVec w.bits → BitVec w.bits → List (Flag × Bool))
    (dst : Place w) (src : Operand w) : Handler := fun s _ => do
  let a ← readPlace s dst
  let b ← readOperand s src
  .ok { flags := f a b }

/-- Read dst, write a result to it, write flags (41_arithmetic.md R204). -/
def unary {w : Width} (f : BitVec w.bits → BitVec w.bits × List (Flag × Bool)) (dst : Place w) : Handler := fun s _ => do
  let a ← readPlace s dst
  .ok ((stage s dst (f a).1).withFlags (f a).2)

/-- An effect on registers and flags alone that reads no operand. -/
def onState (f : State → Effect) : Handler := fun s _ => .ok (f s)

end Sys2Proof.Machine
end

