-- ==== Sys2Proof/Machine/Arithmetic.lean ====
section
/-! DEFINITION. Integer add and subtract (41_arithmetic.md R200 to R209): the handlers, then one meaning for each row. -/

namespace Sys2Proof.Machine

/-- ADD (R201). -/
def addH {w : Width} (dst : Place w) (src : Operand w) : Handler :=
  binary (fun a b _ => ((addF a b false).value, (addF a b false).flags)) dst src

/-- SUB (R202). -/
def subH {w : Width} (dst : Place w) (src : Operand w) : Handler :=
  binary (fun a b _ => ((subF a b false).value, (subF a b false).flags)) dst src

/-- CMP (R203): SUB without the result. -/
def cmpH {w : Width} (dst : Place w) (src : Operand w) : Handler :=
  compare (fun a b => (subF a b false).flags) dst src

/-- INC (R204): CF is not written. -/
def incH {w : Width} (dst : Place w) : Handler :=
  unary (fun a => ((addF a 1#w.bits false).value, (addF a 1#w.bits false).flagsKeepCarry)) dst

/-- DEC (R205): CF is not written. -/
def decH {w : Width} (dst : Place w) : Handler :=
  unary (fun a => ((subF a 1#w.bits false).value, (subF a 1#w.bits false).flagsKeepCarry)) dst

/-- ADC (R206). -/
def adcH {w : Width} (dst : Place w) (src : Operand w) : Handler :=
  binary (fun a b x => ((addF a b x.CF).value, (addF a b x.CF).flags)) dst src

/-- SBB (R207). -/
def sbbH {w : Width} (dst : Place w) (src : Operand w) : Handler :=
  binary (fun a b x => ((subF a b x.CF).value, (subF a b x.CF).flags)) dst src

/-- NEG (R208): 0 - a. -/
def negH {w : Width} (dst : Place w) : Handler :=
  unary (fun a => ((subF 0#w.bits a false).value, (subF 0#w.bits a false).flags)) dst

/-- ADD `00 /r` (R201). -/
def execAddRm8R8 (p : Prefixes) (rm : RM Reg8) (r : Reg8) (s : State) : StepResult :=
  perform (.addRm8R8 p rm r) (addH (rmPlace8 rm) (.place (.reg (.b r)))) s

/-- ADD `01 /r` (R201). -/
def execAddRmR (p : Prefixes) (rm : RM Reg) (r : Reg) (s : State) : StepResult :=
  perform (.addRmR p rm r) (addH (rmPlace (opWidth p) rm) (.place (.reg (regView (opWidth p) r)))) s

/-- ADD `02 /r` (R201). -/
def execAddR8Rm8 (p : Prefixes) (r : Reg8) (rm : RM Reg8) (s : State) : StepResult :=
  perform (.addR8Rm8 p r rm) (addH (.reg (.b r)) (.place (rmPlace8 rm))) s

/-- ADD `03 /r` (R201). -/
def execAddRRm (p : Prefixes) (r : Reg) (rm : RM Reg) (s : State) : StepResult :=
  perform (.addRRm p r rm) (addH (.reg (regView (opWidth p) r)) (.place (rmPlace (opWidth p) rm))) s

/-- ADD `04 ib` (R201). -/
def execAddAlImm8 (p : Prefixes) (v : Byte) (s : State) : StepResult :=
  perform (.addAlImm8 p v) (addH (.reg (accum .w8)) (.imm v)) s

/-- ADD `05 iz` (R201). -/
def execAddEaxImm (p : Prefixes) (v : ImmZ) (s : State) : StepResult :=
  perform (.addEaxImm p v) (addH (.reg (accum (opWidth p))) (.imm (immZ (opWidth p) v))) s

/-- ADD `80 /0 ib` (R201). -/
def execAddRm8Imm8 (p : Prefixes) (rm : RM Reg8) (v : Byte) (s : State) : StepResult :=
  perform (.addRm8Imm8 p rm v) (addH (rmPlace8 rm) (.imm v)) s

/-- ADD `81 /0 iz` (R201). -/
def execAddRmImm (p : Prefixes) (rm : RM Reg) (v : ImmZ) (s : State) : StepResult :=
  perform (.addRmImm p rm v) (addH (rmPlace (opWidth p) rm) (.imm (immZ (opWidth p) v))) s

/-- ADD `83 /0 ib` (R201). -/
def execAddRmImm8 (p : Prefixes) (rm : RM Reg) (v : Byte) (s : State) : StepResult :=
  perform (.addRmImm8 p rm v) (addH (rmPlace (opWidth p) rm) (.imm (v.signExtend (opWidth p).bits))) s

/-- ADC `10 /r` (R206). -/
def execAdcRm8R8 (p : Prefixes) (rm : RM Reg8) (r : Reg8) (s : State) : StepResult :=
  perform (.adcRm8R8 p rm r) (adcH (rmPlace8 rm) (.place (.reg (.b r)))) s

/-- ADC `11 /r` (R206). -/
def execAdcRmR (p : Prefixes) (rm : RM Reg) (r : Reg) (s : State) : StepResult :=
  perform (.adcRmR p rm r) (adcH (rmPlace (opWidth p) rm) (.place (.reg (regView (opWidth p) r)))) s

/-- ADC `12 /r` (R206). -/
def execAdcR8Rm8 (p : Prefixes) (r : Reg8) (rm : RM Reg8) (s : State) : StepResult :=
  perform (.adcR8Rm8 p r rm) (adcH (.reg (.b r)) (.place (rmPlace8 rm))) s

/-- ADC `13 /r` (R206). -/
def execAdcRRm (p : Prefixes) (r : Reg) (rm : RM Reg) (s : State) : StepResult :=
  perform (.adcRRm p r rm) (adcH (.reg (regView (opWidth p) r)) (.place (rmPlace (opWidth p) rm))) s

/-- ADC `14 ib` (R206). -/
def execAdcAlImm8 (p : Prefixes) (v : Byte) (s : State) : StepResult :=
  perform (.adcAlImm8 p v) (adcH (.reg (accum .w8)) (.imm v)) s

/-- ADC `15 iz` (R206). -/
def execAdcEaxImm (p : Prefixes) (v : ImmZ) (s : State) : StepResult :=
  perform (.adcEaxImm p v) (adcH (.reg (accum (opWidth p))) (.imm (immZ (opWidth p) v))) s

/-- ADC `80 /2 ib` (R206). -/
def execAdcRm8Imm8 (p : Prefixes) (rm : RM Reg8) (v : Byte) (s : State) : StepResult :=
  perform (.adcRm8Imm8 p rm v) (adcH (rmPlace8 rm) (.imm v)) s

/-- ADC `81 /2 iz` (R206). -/
def execAdcRmImm (p : Prefixes) (rm : RM Reg) (v : ImmZ) (s : State) : StepResult :=
  perform (.adcRmImm p rm v) (adcH (rmPlace (opWidth p) rm) (.imm (immZ (opWidth p) v))) s

/-- ADC `83 /2 ib` (R206). -/
def execAdcRmImm8 (p : Prefixes) (rm : RM Reg) (v : Byte) (s : State) : StepResult :=
  perform (.adcRmImm8 p rm v) (adcH (rmPlace (opWidth p) rm) (.imm (v.signExtend (opWidth p).bits))) s

/-- SBB `18 /r` (R207). -/
def execSbbRm8R8 (p : Prefixes) (rm : RM Reg8) (r : Reg8) (s : State) : StepResult :=
  perform (.sbbRm8R8 p rm r) (sbbH (rmPlace8 rm) (.place (.reg (.b r)))) s

/-- SBB `19 /r` (R207). -/
def execSbbRmR (p : Prefixes) (rm : RM Reg) (r : Reg) (s : State) : StepResult :=
  perform (.sbbRmR p rm r) (sbbH (rmPlace (opWidth p) rm) (.place (.reg (regView (opWidth p) r)))) s

/-- SBB `1A /r` (R207). -/
def execSbbR8Rm8 (p : Prefixes) (r : Reg8) (rm : RM Reg8) (s : State) : StepResult :=
  perform (.sbbR8Rm8 p r rm) (sbbH (.reg (.b r)) (.place (rmPlace8 rm))) s

/-- SBB `1B /r` (R207). -/
def execSbbRRm (p : Prefixes) (r : Reg) (rm : RM Reg) (s : State) : StepResult :=
  perform (.sbbRRm p r rm) (sbbH (.reg (regView (opWidth p) r)) (.place (rmPlace (opWidth p) rm))) s

/-- SBB `1C ib` (R207). -/
def execSbbAlImm8 (p : Prefixes) (v : Byte) (s : State) : StepResult :=
  perform (.sbbAlImm8 p v) (sbbH (.reg (accum .w8)) (.imm v)) s

/-- SBB `1D iz` (R207). -/
def execSbbEaxImm (p : Prefixes) (v : ImmZ) (s : State) : StepResult :=
  perform (.sbbEaxImm p v) (sbbH (.reg (accum (opWidth p))) (.imm (immZ (opWidth p) v))) s

/-- SBB `80 /3 ib` (R207). -/
def execSbbRm8Imm8 (p : Prefixes) (rm : RM Reg8) (v : Byte) (s : State) : StepResult :=
  perform (.sbbRm8Imm8 p rm v) (sbbH (rmPlace8 rm) (.imm v)) s

/-- SBB `81 /3 iz` (R207). -/
def execSbbRmImm (p : Prefixes) (rm : RM Reg) (v : ImmZ) (s : State) : StepResult :=
  perform (.sbbRmImm p rm v) (sbbH (rmPlace (opWidth p) rm) (.imm (immZ (opWidth p) v))) s

/-- SBB `83 /3 ib` (R207). -/
def execSbbRmImm8 (p : Prefixes) (rm : RM Reg) (v : Byte) (s : State) : StepResult :=
  perform (.sbbRmImm8 p rm v) (sbbH (rmPlace (opWidth p) rm) (.imm (v.signExtend (opWidth p).bits))) s

/-- SUB `28 /r` (R202). -/
def execSubRm8R8 (p : Prefixes) (rm : RM Reg8) (r : Reg8) (s : State) : StepResult :=
  perform (.subRm8R8 p rm r) (subH (rmPlace8 rm) (.place (.reg (.b r)))) s

/-- SUB `29 /r` (R202). -/
def execSubRmR (p : Prefixes) (rm : RM Reg) (r : Reg) (s : State) : StepResult :=
  perform (.subRmR p rm r) (subH (rmPlace (opWidth p) rm) (.place (.reg (regView (opWidth p) r)))) s

/-- SUB `2A /r` (R202). -/
def execSubR8Rm8 (p : Prefixes) (r : Reg8) (rm : RM Reg8) (s : State) : StepResult :=
  perform (.subR8Rm8 p r rm) (subH (.reg (.b r)) (.place (rmPlace8 rm))) s

/-- SUB `2B /r` (R202). -/
def execSubRRm (p : Prefixes) (r : Reg) (rm : RM Reg) (s : State) : StepResult :=
  perform (.subRRm p r rm) (subH (.reg (regView (opWidth p) r)) (.place (rmPlace (opWidth p) rm))) s

/-- SUB `2C ib` (R202). -/
def execSubAlImm8 (p : Prefixes) (v : Byte) (s : State) : StepResult :=
  perform (.subAlImm8 p v) (subH (.reg (accum .w8)) (.imm v)) s

/-- SUB `2D iz` (R202). -/
def execSubEaxImm (p : Prefixes) (v : ImmZ) (s : State) : StepResult :=
  perform (.subEaxImm p v) (subH (.reg (accum (opWidth p))) (.imm (immZ (opWidth p) v))) s

/-- SUB `80 /5 ib` (R202). -/
def execSubRm8Imm8 (p : Prefixes) (rm : RM Reg8) (v : Byte) (s : State) : StepResult :=
  perform (.subRm8Imm8 p rm v) (subH (rmPlace8 rm) (.imm v)) s

/-- SUB `81 /5 iz` (R202). -/
def execSubRmImm (p : Prefixes) (rm : RM Reg) (v : ImmZ) (s : State) : StepResult :=
  perform (.subRmImm p rm v) (subH (rmPlace (opWidth p) rm) (.imm (immZ (opWidth p) v))) s

/-- SUB `83 /5 ib` (R202). -/
def execSubRmImm8 (p : Prefixes) (rm : RM Reg) (v : Byte) (s : State) : StepResult :=
  perform (.subRmImm8 p rm v) (subH (rmPlace (opWidth p) rm) (.imm (v.signExtend (opWidth p).bits))) s

/-- CMP `38 /r` (R203). -/
def execCmpRm8R8 (p : Prefixes) (rm : RM Reg8) (r : Reg8) (s : State) : StepResult :=
  perform (.cmpRm8R8 p rm r) (cmpH (rmPlace8 rm) (.place (.reg (.b r)))) s

/-- CMP `39 /r` (R203). -/
def execCmpRmR (p : Prefixes) (rm : RM Reg) (r : Reg) (s : State) : StepResult :=
  perform (.cmpRmR p rm r) (cmpH (rmPlace (opWidth p) rm) (.place (.reg (regView (opWidth p) r)))) s

/-- CMP `3A /r` (R203). -/
def execCmpR8Rm8 (p : Prefixes) (r : Reg8) (rm : RM Reg8) (s : State) : StepResult :=
  perform (.cmpR8Rm8 p r rm) (cmpH (.reg (.b r)) (.place (rmPlace8 rm))) s

/-- CMP `3B /r` (R203). -/
def execCmpRRm (p : Prefixes) (r : Reg) (rm : RM Reg) (s : State) : StepResult :=
  perform (.cmpRRm p r rm) (cmpH (.reg (regView (opWidth p) r)) (.place (rmPlace (opWidth p) rm))) s

/-- CMP `3C ib` (R203). -/
def execCmpAlImm8 (p : Prefixes) (v : Byte) (s : State) : StepResult :=
  perform (.cmpAlImm8 p v) (cmpH (.reg (accum .w8)) (.imm v)) s

/-- CMP `3D iz` (R203). -/
def execCmpEaxImm (p : Prefixes) (v : ImmZ) (s : State) : StepResult :=
  perform (.cmpEaxImm p v) (cmpH (.reg (accum (opWidth p))) (.imm (immZ (opWidth p) v))) s

/-- CMP `80 /7 ib` (R203). -/
def execCmpRm8Imm8 (p : Prefixes) (rm : RM Reg8) (v : Byte) (s : State) : StepResult :=
  perform (.cmpRm8Imm8 p rm v) (cmpH (rmPlace8 rm) (.imm v)) s

/-- CMP `81 /7 iz` (R203). -/
def execCmpRmImm (p : Prefixes) (rm : RM Reg) (v : ImmZ) (s : State) : StepResult :=
  perform (.cmpRmImm p rm v) (cmpH (rmPlace (opWidth p) rm) (.imm (immZ (opWidth p) v))) s

/-- CMP `83 /7 ib` (R203). -/
def execCmpRmImm8 (p : Prefixes) (rm : RM Reg) (v : Byte) (s : State) : StepResult :=
  perform (.cmpRmImm8 p rm v) (cmpH (rmPlace (opWidth p) rm) (.imm (v.signExtend (opWidth p).bits))) s

/-- INC `40+r` (R204). -/
def execIncR (p : Prefixes) (r : Reg) (s : State) : StepResult :=
  perform (.incR p r) (incH (.reg (regView (opWidth p) r))) s

/-- DEC `48+r` (R205). -/
def execDecR (p : Prefixes) (r : Reg) (s : State) : StepResult :=
  perform (.decR p r) (decH (.reg (regView (opWidth p) r))) s

/-- INC `FE /0` (R204). -/
def execIncRm8 (p : Prefixes) (rm : RM Reg8) (s : State) : StepResult :=
  perform (.incRm8 p rm) (incH (rmPlace8 rm)) s

/-- DEC `FE /1` (R205). -/
def execDecRm8 (p : Prefixes) (rm : RM Reg8) (s : State) : StepResult :=
  perform (.decRm8 p rm) (decH (rmPlace8 rm)) s

/-- INC `FF /0` (R204). -/
def execIncRm (p : Prefixes) (rm : RM Reg) (s : State) : StepResult :=
  perform (.incRm p rm) (incH (rmPlace (opWidth p) rm)) s

/-- DEC `FF /1` (R205). -/
def execDecRm (p : Prefixes) (rm : RM Reg) (s : State) : StepResult :=
  perform (.decRm p rm) (decH (rmPlace (opWidth p) rm)) s

/-- NEG `F6 /3` (R208). -/
def execNegRm8 (p : Prefixes) (rm : RM Reg8) (s : State) : StepResult :=
  perform (.negRm8 p rm) (negH (rmPlace8 rm)) s

/-- NEG `F7 /3` (R208). -/
def execNegRm (p : Prefixes) (rm : RM Reg) (s : State) : StepResult :=
  perform (.negRm p rm) (negH (rmPlace (opWidth p) rm)) s

end Sys2Proof.Machine
end

