-- ==== Sys2Proof/Machine/BcdMoves.lean ====
section
/-! DEFINITION. BCD adjust, sign extension, moves and LEA (49_bcd_extension_moves.md R410 to R435): the handlers, then one meaning for each row. -/

namespace Sys2Proof.Machine

/-- AAD (R410): AL gets AL + AH * base, AH gets 0. -/
def aadH (base : Byte) : Handler := onState fun s =>
  let al : Byte := s.regs.readView (.b .al)
  let ah : Byte := s.regs.readView (.b .ah)
  let r := BitVec.ofNat 8 (al.toNat + ah.toNat * base.toNat)
  { regs := [⟨.w8, .b .al, r⟩, ⟨.w8, .b .ah, 0#8⟩]
    flags := resultFlags r ++ undefFlags .AAD none [al.toNat, ah.toNat, base.toNat] s.flags [.OF, .AF, .CF] }

/-- AAM (R411): AH gets AL div base, AL gets AL mod base; base 0 is a divide error. -/
def aamH (base : Byte) : Handler := fun s _ =>
  let al : Byte := s.regs.readView (.b .al)
  if base.toNat = 0 then .error (.divideError s.eip)
  else
    let r := BitVec.ofNat 8 (al.toNat % base.toNat)
    .ok { regs := [⟨.w8, .b .ah, BitVec.ofNat 8 (al.toNat / base.toNat)⟩, ⟨.w8, .b .al, r⟩]
          flags := resultFlags r ++ undefFlags .AAM none [al.toNat, base.toNat] s.flags [.OF, .AF, .CF] }

/-- CBW (R412). -/
def cbwH : Handler := onState fun s =>
  { regs := [⟨.w16, .w .eax, (s.regs.readView (.b .al)).signExtend 16⟩] }

/-- CWDE (R413). -/
def cwdeH : Handler := onState fun s =>
  { regs := [⟨.w32, .d .eax, (s.regs.readView (.w .eax)).signExtend 32⟩] }

/-- CWD (R414). -/
def cwdH : Handler := onState fun s =>
  { regs := [⟨.w16, .w .edx, if (s.regs.get .eax).getLsbD 15 then 0xFFFF#16 else 0x0000#16⟩] }

/-- CDQ (R415). -/
def cdqH : Handler := onState fun s =>
  { regs := [⟨.w32, .d .edx, if (s.regs.get .eax).getLsbD 31 then 0xFFFFFFFF#32 else 0x00000000#32⟩] }

/-- MOV (R416 to R420): dst is not read. -/
def movH {w : Width} (dst : Place w) (src : Operand w) : Handler := fun s _ => do
  let v ← readOperand s src
  .ok (stage s dst v)

/-- MOVZX (R421). -/
def movzxH {w v : Width} (dst : Place w) (src : Place v) : Handler := fun s _ => do
  let x ← readPlace s src
  .ok (stage s dst (x.setWidth w.bits))

/-- MOVSX (R422). -/
def movsxH {w v : Width} (dst : Place w) (src : Place v) : Handler := fun s _ => do
  let x ← readPlace s src
  .ok (stage s dst (x.signExtend w.bits))

/-- LEA (R434): the address is computed and never accessed. -/
def leaH {w : Width} (dst : Place w) (m : EaExpr) : Handler := onState fun s =>
  stage s dst ((m.address s.regs).setWidth w.bits)

/-- MOV `88 /r` (R416). -/
def execMovRm8R8 (p : Prefixes) (rm : RM Reg8) (r : Reg8) (s : State) : StepResult :=
  perform (.movRm8R8 p rm r) (movH (rmPlace8 rm) (.place (.reg (.b r)))) s

/-- MOV `89 /r` (R416). -/
def execMovRmR (p : Prefixes) (rm : RM Reg) (r : Reg) (s : State) : StepResult :=
  perform (.movRmR p rm r) (movH (rmPlace (opWidth p) rm) (.place (.reg (regView (opWidth p) r)))) s

/-- MOV `8A /r` (R417). -/
def execMovR8Rm8 (p : Prefixes) (r : Reg8) (rm : RM Reg8) (s : State) : StepResult :=
  perform (.movR8Rm8 p r rm) (movH (.reg (.b r)) (.place (rmPlace8 rm))) s

/-- MOV `8B /r` (R417). -/
def execMovRRm (p : Prefixes) (r : Reg) (rm : RM Reg) (s : State) : StepResult :=
  perform (.movRRm p r rm) (movH (.reg (regView (opWidth p) r)) (.place (rmPlace (opWidth p) rm))) s

/-- MOV `B0+r ib` (R418). -/
def execMovR8Imm8 (p : Prefixes) (r : Reg8) (v : Byte) (s : State) : StepResult :=
  perform (.movR8Imm8 p r v) (movH (.reg (.b r)) (.imm v)) s

/-- MOV `B8+r iz` (R418). -/
def execMovRImm (p : Prefixes) (r : Reg) (v : ImmZ) (s : State) : StepResult :=
  perform (.movRImm p r v) (movH (.reg (regView (opWidth p) r)) (.imm (immZ (opWidth p) v))) s

/-- MOV `C6 /0 ib` (R419). -/
def execMovRm8Imm8 (p : Prefixes) (rm : RM Reg8) (v : Byte) (s : State) : StepResult :=
  perform (.movRm8Imm8 p rm v) (movH (rmPlace8 rm) (.imm v)) s

/-- MOV `C7 /0 iz` (R419). -/
def execMovRmImm (p : Prefixes) (rm : RM Reg) (v : ImmZ) (s : State) : StepResult :=
  perform (.movRmImm p rm v) (movH (rmPlace (opWidth p) rm) (.imm (immZ (opWidth p) v))) s

/-- MOV `A0 moffs` (R420). -/
def execMovAlMoffs (p : Prefixes) (d : Word) (s : State) : StepResult :=
  perform (.movAlMoffs p d) (movH (.reg (accum .w8)) (.place (.mem (eaAbs d)))) s

/-- MOV `A1 moffs` (R420). -/
def execMovEaxMoffs (p : Prefixes) (d : Word) (s : State) : StepResult :=
  perform (.movEaxMoffs p d) (movH (.reg (accum (opWidth p))) (.place (.mem (eaAbs d)))) s

/-- MOV `A2 moffs` (R420). -/
def execMovMoffsAl (p : Prefixes) (d : Word) (s : State) : StepResult :=
  perform (.movMoffsAl p d) (movH (.mem (eaAbs d)) (.place (.reg (accum .w8)))) s

/-- MOV `A3 moffs` (R420). -/
def execMovMoffsEax (p : Prefixes) (d : Word) (s : State) : StepResult :=
  perform (.movMoffsEax p d) (movH (.mem (eaAbs d)) (.place (.reg (accum (opWidth p))))) s

/-- LEA `8D /r` (R434). -/
def execLeaRM (p : Prefixes) (r : Reg) (m : Mem) (s : State) : StepResult :=
  perform (.leaRM p r m) (leaH (.reg (regView (opWidth p) r)) (eaOf m)) s

/-- MOVZX `0F B6 /r` (R421). -/
def execMovzxRRm8 (p : Prefixes) (r : Reg) (rm : RM Reg8) (s : State) : StepResult :=
  perform (.movzxRRm8 p r rm) (movzxH (.reg (regView (opWidth p) r)) (rmPlace8 rm)) s

/-- MOVZX `0F B7 /r` (R421). -/
def execMovzxRRm16 (p : Prefixes) (r : Reg) (rm : RM Reg) (s : State) : StepResult :=
  perform (.movzxRRm16 p r rm) (movzxH (.reg (regView (opWidth p) r)) (rmPlace .w16 rm)) s

/-- MOVSX `0F BE /r` (R422). -/
def execMovsxRRm8 (p : Prefixes) (r : Reg) (rm : RM Reg8) (s : State) : StepResult :=
  perform (.movsxRRm8 p r rm) (movsxH (.reg (regView (opWidth p) r)) (rmPlace8 rm)) s

/-- MOVSX `0F BF /r` (R422). -/
def execMovsxRRm16 (p : Prefixes) (r : Reg) (rm : RM Reg) (s : State) : StepResult :=
  perform (.movsxRRm16 p r rm) (movsxH (.reg (regView (opWidth p) r)) (rmPlace .w16 rm)) s

/-- CBW `66 98` (R412). -/
def execCbw (p : Prefixes) (s : State) : StepResult :=
  perform (.cbw p) cbwH s

/-- CWDE `98` (R413). -/
def execCwde (p : Prefixes) (s : State) : StepResult :=
  perform (.cwde p) cwdeH s

/-- CWD `66 99` (R414). -/
def execCwd (p : Prefixes) (s : State) : StepResult :=
  perform (.cwd p) cwdH s

/-- CDQ `99` (R415). -/
def execCdq (p : Prefixes) (s : State) : StepResult :=
  perform (.cdq p) cdqH s

/-- AAM `D4 ib` (R411). -/
def execAamImm8 (p : Prefixes) (v : Byte) (s : State) : StepResult :=
  perform (.aamImm8 p v) (aamH v) s

/-- AAD `D5 ib` (R410). -/
def execAadImm8 (p : Prefixes) (v : Byte) (s : State) : StepResult :=
  perform (.aadImm8 p v) (aadH v) s

end Sys2Proof.Machine
end

