-- ==== Sys2Proof/Machine/BitOps.lean ====
section
/-! DEFINITION. Bit scan, byte swap and bit test (45_bit_ops.md R300 to R307): the handlers, then one meaning for each row. -/

namespace Sys2Proof.Machine

/-- `min { i : b[i] = 1 }`, where there is one (R300). -/
def lowestSet {n : Nat} (b : BitVec n) : Option Nat := (List.range n).find? fun i => b.getLsbD i

/-- `max { i : b[i] = 1 }`, where there is one (R301). -/
def highestSet {n : Nat} (b : BitVec n) : Option Nat := (List.range n).reverse.find? fun i => b.getLsbD i

/-- The common form of BSF and BSR: ZF tells whether src is 0, and then dst is not written (R300, R301). -/
def scan {w : Width} (f : BitVec w.bits → Option Nat) (dst : Place w) (src : Operand w) : Handler := fun s _ => do
  let b ← readOperand s src
  match f b with
  | none => .ok { flags := [(.ZF, true)] }
  | some k => .ok ((stage s dst (BitVec.ofNat w.bits k)).withFlags [(.ZF, false)])

/-- BSF (R300). -/
def bsfH {w : Width} (dst : Place w) (src : Operand w) : Handler := scan lowestSet dst src

/-- BSR (R301). -/
def bsrH {w : Width} (dst : Place w) (src : Operand w) : Handler := scan highestSet dst src

/-- The bytes of a word in reverse order (R302). -/
def swapBytes (d : Word) : Word :=
  d.extractLsb' 0 8 ++ d.extractLsb' 8 8 ++ d.extractLsb' 16 8 ++ d.extractLsb' 24 8

/-- BSWAP (R302): no flag is written. -/
def bswapH (dst : Place .w32) : Handler := unary (w := .w32) (fun d => (swapBytes d, [])) dst

/-- `k = u(bit_index) mod w` (R303). -/
def bitIndex {v : Width} (w : Width) (i : BitVec v.bits) : Nat := i.toNat % w.bits

/-- `2^k` as a w-bit value (R305). -/
def bitMask (w : Width) (k : Nat) : BitVec w.bits := BitVec.ofNat w.bits (2 ^ k)

/-- BT (R304): dst is not written. -/
def btH {w v : Width} (dst : Place w) (idx : Operand v) : Handler := fun s _ => do
  let d ← readPlace s dst
  let i ← readOperand s idx
  .ok { flags := [(.CF, d.getLsbD (bitIndex w i))] }

/-- The common form of BTS, BTR and BTC: CF gets the bit before modification (R303). -/
def bitModify {w v : Width} (f : BitVec w.bits → BitVec w.bits → BitVec w.bits) (dst : Place w) (idx : Operand v) : Handler :=
  fun s _ => do
    let d ← readPlace s dst
    let i ← readOperand s idx
    .ok ((stage s dst (f d (bitMask w (bitIndex w i)))).withFlags [(.CF, d.getLsbD (bitIndex w i))])

/-- BTS (R305). -/
def btsH {w v : Width} (dst : Place w) (idx : Operand v) : Handler := bitModify (fun d m => d ||| m) dst idx

/-- BTR (R306). -/
def btrH {w v : Width} (dst : Place w) (idx : Operand v) : Handler := bitModify (fun d m => d &&& ~~~m) dst idx

/-- BTC (R307). -/
def btcH {w v : Width} (dst : Place w) (idx : Operand v) : Handler := bitModify (fun d m => d ^^^ m) dst idx

/-- BSF `0F BC /r` (R300). -/
def execBsfRRm (p : Prefixes) (r : Reg) (rm : RM Reg) (s : State) : StepResult :=
  perform (.bsfRRm p r rm) (bsfH (.reg (regView (opWidth p) r)) (.place (rmPlace (opWidth p) rm))) s

/-- BSR `0F BD /r` (R301). -/
def execBsrRRm (p : Prefixes) (r : Reg) (rm : RM Reg) (s : State) : StepResult :=
  perform (.bsrRRm p r rm) (bsrH (.reg (regView (opWidth p) r)) (.place (rmPlace (opWidth p) rm))) s

/-- BSWAP `0F C8+r` (R302). -/
def execBswapR32 (p : Prefixes) (r : Reg) (s : State) : StepResult :=
  perform (.bswapR32 p r) (bswapH (.reg (regView .w32 r))) s

/-- BT `0F A3 /r` (R304). -/
def execBtRmR (p : Prefixes) (rm : RM Reg) (r : Reg) (s : State) : StepResult :=
  perform (.btRmR p rm r) (btH (rmPlace (opWidth p) rm) (.place (.reg (regView (opWidth p) r)))) s

/-- BT `0F BA /4 ib` (R304). -/
def execBtRmImm8 (p : Prefixes) (rm : RM Reg) (v : Byte) (s : State) : StepResult :=
  perform (.btRmImm8 p rm v) (btH (rmPlace (opWidth p) rm) (.imm (w := .w8) v)) s

/-- BTS `0F AB /r` (R305). -/
def execBtsRmR (p : Prefixes) (rm : RM Reg) (r : Reg) (s : State) : StepResult :=
  perform (.btsRmR p rm r) (btsH (rmPlace (opWidth p) rm) (.place (.reg (regView (opWidth p) r)))) s

/-- BTS `0F BA /5 ib` (R305). -/
def execBtsRmImm8 (p : Prefixes) (rm : RM Reg) (v : Byte) (s : State) : StepResult :=
  perform (.btsRmImm8 p rm v) (btsH (rmPlace (opWidth p) rm) (.imm (w := .w8) v)) s

/-- BTR `0F B3 /r` (R306). -/
def execBtrRmR (p : Prefixes) (rm : RM Reg) (r : Reg) (s : State) : StepResult :=
  perform (.btrRmR p rm r) (btrH (rmPlace (opWidth p) rm) (.place (.reg (regView (opWidth p) r)))) s

/-- BTR `0F BA /6 ib` (R306). -/
def execBtrRmImm8 (p : Prefixes) (rm : RM Reg) (v : Byte) (s : State) : StepResult :=
  perform (.btrRmImm8 p rm v) (btrH (rmPlace (opWidth p) rm) (.imm (w := .w8) v)) s

/-- BTC `0F BB /r` (R307). -/
def execBtcRmR (p : Prefixes) (rm : RM Reg) (r : Reg) (s : State) : StepResult :=
  perform (.btcRmR p rm r) (btcH (rmPlace (opWidth p) rm) (.place (.reg (regView (opWidth p) r)))) s

/-- BTC `0F BA /7 ib` (R307). -/
def execBtcRmImm8 (p : Prefixes) (rm : RM Reg) (v : Byte) (s : State) : StepResult :=
  perform (.btcRmImm8 p rm v) (btcH (rmPlace (opWidth p) rm) (.imm (w := .w8) v)) s

end Sys2Proof.Machine
end

