-- ==== Sys2Proof/Machine/ConditionalMove.lean ====
section
/-! DEFINITION. Conditional move (46_conditional_move.md R321 to R338): the handler, then one meaning for each row. -/

namespace Sys2Proof.Machine

/-- CMOVcc (R321): the source is read whatever the predicate; a false predicate writes nothing. -/
def cmovH (cc : Cond) {w : Width} (dst : Place w) (src : Operand w) : Handler := fun s _ => do
  let v ← readOperand s src
  if pred s.flags cc then .ok (stage s dst v) else .ok {}

/-- CMOVO `0F 40 /r` (R322). -/
def execCmovoRRm (p : Prefixes) (r : Reg) (rm : RM Reg) (s : State) : StepResult :=
  perform (.cmovoRRm p r rm) (cmovH .O (.reg (regView (opWidth p) r)) (.place (rmPlace (opWidth p) rm))) s

/-- CMOVNO `0F 41 /r` (R323). -/
def execCmovnoRRm (p : Prefixes) (r : Reg) (rm : RM Reg) (s : State) : StepResult :=
  perform (.cmovnoRRm p r rm) (cmovH .NO (.reg (regView (opWidth p) r)) (.place (rmPlace (opWidth p) rm))) s

/-- CMOVB `0F 42 /r` (R324). -/
def execCmovbRRm (p : Prefixes) (r : Reg) (rm : RM Reg) (s : State) : StepResult :=
  perform (.cmovbRRm p r rm) (cmovH .B (.reg (regView (opWidth p) r)) (.place (rmPlace (opWidth p) rm))) s

/-- CMOVAE `0F 43 /r` (R325). -/
def execCmovaeRRm (p : Prefixes) (r : Reg) (rm : RM Reg) (s : State) : StepResult :=
  perform (.cmovaeRRm p r rm) (cmovH .AE (.reg (regView (opWidth p) r)) (.place (rmPlace (opWidth p) rm))) s

/-- CMOVE `0F 44 /r` (R326). -/
def execCmoveRRm (p : Prefixes) (r : Reg) (rm : RM Reg) (s : State) : StepResult :=
  perform (.cmoveRRm p r rm) (cmovH .E (.reg (regView (opWidth p) r)) (.place (rmPlace (opWidth p) rm))) s

/-- CMOVNE `0F 45 /r` (R327). -/
def execCmovneRRm (p : Prefixes) (r : Reg) (rm : RM Reg) (s : State) : StepResult :=
  perform (.cmovneRRm p r rm) (cmovH .NE (.reg (regView (opWidth p) r)) (.place (rmPlace (opWidth p) rm))) s

/-- CMOVBE `0F 46 /r` (R328). -/
def execCmovbeRRm (p : Prefixes) (r : Reg) (rm : RM Reg) (s : State) : StepResult :=
  perform (.cmovbeRRm p r rm) (cmovH .BE (.reg (regView (opWidth p) r)) (.place (rmPlace (opWidth p) rm))) s

/-- CMOVA `0F 47 /r` (R329). -/
def execCmovaRRm (p : Prefixes) (r : Reg) (rm : RM Reg) (s : State) : StepResult :=
  perform (.cmovaRRm p r rm) (cmovH .A (.reg (regView (opWidth p) r)) (.place (rmPlace (opWidth p) rm))) s

/-- CMOVS `0F 48 /r` (R330). -/
def execCmovsRRm (p : Prefixes) (r : Reg) (rm : RM Reg) (s : State) : StepResult :=
  perform (.cmovsRRm p r rm) (cmovH .S (.reg (regView (opWidth p) r)) (.place (rmPlace (opWidth p) rm))) s

/-- CMOVNS `0F 49 /r` (R331). -/
def execCmovnsRRm (p : Prefixes) (r : Reg) (rm : RM Reg) (s : State) : StepResult :=
  perform (.cmovnsRRm p r rm) (cmovH .NS (.reg (regView (opWidth p) r)) (.place (rmPlace (opWidth p) rm))) s

/-- CMOVP `0F 4A /r` (R332). -/
def execCmovpRRm (p : Prefixes) (r : Reg) (rm : RM Reg) (s : State) : StepResult :=
  perform (.cmovpRRm p r rm) (cmovH .P (.reg (regView (opWidth p) r)) (.place (rmPlace (opWidth p) rm))) s

/-- CMOVNP `0F 4B /r` (R333). -/
def execCmovnpRRm (p : Prefixes) (r : Reg) (rm : RM Reg) (s : State) : StepResult :=
  perform (.cmovnpRRm p r rm) (cmovH .NP (.reg (regView (opWidth p) r)) (.place (rmPlace (opWidth p) rm))) s

/-- CMOVL `0F 4C /r` (R334). -/
def execCmovlRRm (p : Prefixes) (r : Reg) (rm : RM Reg) (s : State) : StepResult :=
  perform (.cmovlRRm p r rm) (cmovH .L (.reg (regView (opWidth p) r)) (.place (rmPlace (opWidth p) rm))) s

/-- CMOVGE `0F 4D /r` (R335). -/
def execCmovgeRRm (p : Prefixes) (r : Reg) (rm : RM Reg) (s : State) : StepResult :=
  perform (.cmovgeRRm p r rm) (cmovH .GE (.reg (regView (opWidth p) r)) (.place (rmPlace (opWidth p) rm))) s

/-- CMOVLE `0F 4E /r` (R336). -/
def execCmovleRRm (p : Prefixes) (r : Reg) (rm : RM Reg) (s : State) : StepResult :=
  perform (.cmovleRRm p r rm) (cmovH .LE (.reg (regView (opWidth p) r)) (.place (rmPlace (opWidth p) rm))) s

/-- CMOVG `0F 4F /r` (R337). -/
def execCmovgRRm (p : Prefixes) (r : Reg) (rm : RM Reg) (s : State) : StepResult :=
  perform (.cmovgRRm p r rm) (cmovH .G (.reg (regView (opWidth p) r)) (.place (rmPlace (opWidth p) rm))) s

end Sys2Proof.Machine
end

