-- ==== Sys2Proof/Machine/ControlTransfer.lean ====
section
/-! DEFINITION. Control transfer (47_control_transfer.md R350 to R375): the handlers, then one meaning for each row. -/

namespace Sys2Proof.Machine

/-- A push of a 32-bit value (R350): 4 bytes at ESP - 4, and ESP moves there. -/
def push (s : State) (v : Word) : Effect :=
  let a := s.regs.get .esp - 4#32
  { regs := [⟨.w32, .d .esp, a⟩], mems := [{ addr := a.toNat, size := 4, value := v.toNat }] }

/-- CALL rel32 (R351). -/
def callH (disp : Word) : Handler := fun s next => .ok { push s next with ip := some (relTarget next disp) }

/-- CALL r/m32 (R352): the target is read from the pre-state, before the push is validated. -/
def callIndirectH (src : Place .w32) : Handler := fun s next => do
  let target ← readPlace s src
  .ok { push s next with ip := some target }

/-- RET and RET imm16 (R353, R354). -/
def retH (n : BitVec 16) : Handler := fun s _ => do
  let v ← memRead s.mem .w32 (s.regs.get .esp)
  .ok { regs := [⟨.w32, .d .esp, s.regs.get .esp + 4#32 + n.setWidth 32⟩], ip := some v }

/-- JMP rel8 and JMP rel32 (R355, R356). -/
def jmpH (disp : Word) : Handler := fun _ next => .ok { ip := some (relTarget next disp) }

/-- JMP r/m32 (R357). -/
def jmpIndirectH (src : Place .w32) : Handler := fun s _ => do
  let target ← readPlace s src
  .ok { ip := some target }

/-- Jcc (R358). -/
def jccH (cc : Cond) (disp : Word) : Handler := fun s next =>
  if pred s.flags cc then .ok { ip := some (relTarget next disp) } else .ok {}

/-- CALL `E8 cd` (R351). -/
def execCallRel32 (p : Prefixes) (d : Word) (s : State) : StepResult :=
  perform (.callRel32 p d) (callH d) s

/-- CALL `FF /2` (R352). -/
def execCallRm32 (p : Prefixes) (rm : RM Reg) (s : State) : StepResult :=
  perform (.callRm32 p rm) (callIndirectH (rmPlace .w32 rm)) s

/-- RET `C3` (R353). -/
def execRet (p : Prefixes) (s : State) : StepResult :=
  perform (.ret p) (retH 0#16) s

/-- RET `C2 iw` (R354). -/
def execRetImm16 (p : Prefixes) (v : BitVec 16) (s : State) : StepResult :=
  perform (.retImm16 p v) (retH v) s

/-- JMP `EB cb` (R355). -/
def execJmpRel8 (p : Prefixes) (d : Byte) (s : State) : StepResult :=
  perform (.jmpRel8 p d) (jmpH (d.signExtend 32)) s

/-- JMP `E9 cd` (R356). -/
def execJmpRel32 (p : Prefixes) (d : Word) (s : State) : StepResult :=
  perform (.jmpRel32 p d) (jmpH d) s

/-- JMP `FF /4` (R357). -/
def execJmpRm32 (p : Prefixes) (rm : RM Reg) (s : State) : StepResult :=
  perform (.jmpRm32 p rm) (jmpIndirectH (rmPlace .w32 rm)) s

/-- JO `70 cb` (R359). -/
def execJoRel8 (p : Prefixes) (d : Byte) (s : State) : StepResult :=
  perform (.joRel8 p d) (jccH .O (d.signExtend 32)) s

/-- JO `0F 80 cd` (R359). -/
def execJoRel32 (p : Prefixes) (d : Word) (s : State) : StepResult :=
  perform (.joRel32 p d) (jccH .O d) s

/-- JNO `71 cb` (R360). -/
def execJnoRel8 (p : Prefixes) (d : Byte) (s : State) : StepResult :=
  perform (.jnoRel8 p d) (jccH .NO (d.signExtend 32)) s

/-- JNO `0F 81 cd` (R360). -/
def execJnoRel32 (p : Prefixes) (d : Word) (s : State) : StepResult :=
  perform (.jnoRel32 p d) (jccH .NO d) s

/-- JB `72 cb` (R361). -/
def execJbRel8 (p : Prefixes) (d : Byte) (s : State) : StepResult :=
  perform (.jbRel8 p d) (jccH .B (d.signExtend 32)) s

/-- JB `0F 82 cd` (R361). -/
def execJbRel32 (p : Prefixes) (d : Word) (s : State) : StepResult :=
  perform (.jbRel32 p d) (jccH .B d) s

/-- JAE `73 cb` (R362). -/
def execJaeRel8 (p : Prefixes) (d : Byte) (s : State) : StepResult :=
  perform (.jaeRel8 p d) (jccH .AE (d.signExtend 32)) s

/-- JAE `0F 83 cd` (R362). -/
def execJaeRel32 (p : Prefixes) (d : Word) (s : State) : StepResult :=
  perform (.jaeRel32 p d) (jccH .AE d) s

/-- JE `74 cb` (R363). -/
def execJeRel8 (p : Prefixes) (d : Byte) (s : State) : StepResult :=
  perform (.jeRel8 p d) (jccH .E (d.signExtend 32)) s

/-- JE `0F 84 cd` (R363). -/
def execJeRel32 (p : Prefixes) (d : Word) (s : State) : StepResult :=
  perform (.jeRel32 p d) (jccH .E d) s

/-- JNE `75 cb` (R364). -/
def execJneRel8 (p : Prefixes) (d : Byte) (s : State) : StepResult :=
  perform (.jneRel8 p d) (jccH .NE (d.signExtend 32)) s

/-- JNE `0F 85 cd` (R364). -/
def execJneRel32 (p : Prefixes) (d : Word) (s : State) : StepResult :=
  perform (.jneRel32 p d) (jccH .NE d) s

/-- JBE `76 cb` (R365). -/
def execJbeRel8 (p : Prefixes) (d : Byte) (s : State) : StepResult :=
  perform (.jbeRel8 p d) (jccH .BE (d.signExtend 32)) s

/-- JBE `0F 86 cd` (R365). -/
def execJbeRel32 (p : Prefixes) (d : Word) (s : State) : StepResult :=
  perform (.jbeRel32 p d) (jccH .BE d) s

/-- JA `77 cb` (R366). -/
def execJaRel8 (p : Prefixes) (d : Byte) (s : State) : StepResult :=
  perform (.jaRel8 p d) (jccH .A (d.signExtend 32)) s

/-- JA `0F 87 cd` (R366). -/
def execJaRel32 (p : Prefixes) (d : Word) (s : State) : StepResult :=
  perform (.jaRel32 p d) (jccH .A d) s

/-- JS `78 cb` (R367). -/
def execJsRel8 (p : Prefixes) (d : Byte) (s : State) : StepResult :=
  perform (.jsRel8 p d) (jccH .S (d.signExtend 32)) s

/-- JS `0F 88 cd` (R367). -/
def execJsRel32 (p : Prefixes) (d : Word) (s : State) : StepResult :=
  perform (.jsRel32 p d) (jccH .S d) s

/-- JNS `79 cb` (R368). -/
def execJnsRel8 (p : Prefixes) (d : Byte) (s : State) : StepResult :=
  perform (.jnsRel8 p d) (jccH .NS (d.signExtend 32)) s

/-- JNS `0F 89 cd` (R368). -/
def execJnsRel32 (p : Prefixes) (d : Word) (s : State) : StepResult :=
  perform (.jnsRel32 p d) (jccH .NS d) s

/-- JP `7A cb` (R369). -/
def execJpRel8 (p : Prefixes) (d : Byte) (s : State) : StepResult :=
  perform (.jpRel8 p d) (jccH .P (d.signExtend 32)) s

/-- JP `0F 8A cd` (R369). -/
def execJpRel32 (p : Prefixes) (d : Word) (s : State) : StepResult :=
  perform (.jpRel32 p d) (jccH .P d) s

/-- JNP `7B cb` (R370). -/
def execJnpRel8 (p : Prefixes) (d : Byte) (s : State) : StepResult :=
  perform (.jnpRel8 p d) (jccH .NP (d.signExtend 32)) s

/-- JNP `0F 8B cd` (R370). -/
def execJnpRel32 (p : Prefixes) (d : Word) (s : State) : StepResult :=
  perform (.jnpRel32 p d) (jccH .NP d) s

/-- JL `7C cb` (R371). -/
def execJlRel8 (p : Prefixes) (d : Byte) (s : State) : StepResult :=
  perform (.jlRel8 p d) (jccH .L (d.signExtend 32)) s

/-- JL `0F 8C cd` (R371). -/
def execJlRel32 (p : Prefixes) (d : Word) (s : State) : StepResult :=
  perform (.jlRel32 p d) (jccH .L d) s

/-- JGE `7D cb` (R372). -/
def execJgeRel8 (p : Prefixes) (d : Byte) (s : State) : StepResult :=
  perform (.jgeRel8 p d) (jccH .GE (d.signExtend 32)) s

/-- JGE `0F 8D cd` (R372). -/
def execJgeRel32 (p : Prefixes) (d : Word) (s : State) : StepResult :=
  perform (.jgeRel32 p d) (jccH .GE d) s

/-- JLE `7E cb` (R373). -/
def execJleRel8 (p : Prefixes) (d : Byte) (s : State) : StepResult :=
  perform (.jleRel8 p d) (jccH .LE (d.signExtend 32)) s

/-- JLE `0F 8E cd` (R373). -/
def execJleRel32 (p : Prefixes) (d : Word) (s : State) : StepResult :=
  perform (.jleRel32 p d) (jccH .LE d) s

/-- JG `7F cb` (R374). -/
def execJgRel8 (p : Prefixes) (d : Byte) (s : State) : StepResult :=
  perform (.jgRel8 p d) (jccH .G (d.signExtend 32)) s

/-- JG `0F 8F cd` (R374). -/
def execJgRel32 (p : Prefixes) (d : Word) (s : State) : StepResult :=
  perform (.jgRel32 p d) (jccH .G d) s

end Sys2Proof.Machine
end

