-- ==== Sys2Proof/Machine/Logical.lean ====
section
/-! DEFINITION. Logical operations (42_logical.md R230 to R234): the handlers, then one meaning for each row. -/

namespace Sys2Proof.Machine

/-- AND (R230). -/
def andH {w : Width} (dst : Place w) (src : Operand w) : Handler :=
  binary (fun a b _ => (a &&& b, logicFlags (a &&& b))) dst src

/-- OR (R231). -/
def orH {w : Width} (dst : Place w) (src : Operand w) : Handler :=
  binary (fun a b _ => (a ||| b, logicFlags (a ||| b))) dst src

/-- XOR (R232). -/
def xorH {w : Width} (dst : Place w) (src : Operand w) : Handler :=
  binary (fun a b _ => (a ^^^ b, logicFlags (a ^^^ b))) dst src

/-- TEST (R233): AND without the result. -/
def testH {w : Width} (dst : Place w) (src : Operand w) : Handler :=
  compare (fun a b => logicFlags (a &&& b)) dst src

/-- NOT (R234): no flag is written. -/
def notH {w : Width} (dst : Place w) : Handler :=
  unary (fun a => (a ^^^ BitVec.allOnes w.bits, [])) dst

/-- OR `08 /r` (R231). -/
def execOrRm8R8 (p : Prefixes) (rm : RM Reg8) (r : Reg8) (s : State) : StepResult :=
  perform (.orRm8R8 p rm r) (orH (rmPlace8 rm) (.place (.reg (.b r)))) s

/-- OR `09 /r` (R231). -/
def execOrRmR (p : Prefixes) (rm : RM Reg) (r : Reg) (s : State) : StepResult :=
  perform (.orRmR p rm r) (orH (rmPlace (opWidth p) rm) (.place (.reg (regView (opWidth p) r)))) s

/-- OR `0A /r` (R231). -/
def execOrR8Rm8 (p : Prefixes) (r : Reg8) (rm : RM Reg8) (s : State) : StepResult :=
  perform (.orR8Rm8 p r rm) (orH (.reg (.b r)) (.place (rmPlace8 rm))) s

/-- OR `0B /r` (R231). -/
def execOrRRm (p : Prefixes) (r : Reg) (rm : RM Reg) (s : State) : StepResult :=
  perform (.orRRm p r rm) (orH (.reg (regView (opWidth p) r)) (.place (rmPlace (opWidth p) rm))) s

/-- OR `0C ib` (R231). -/
def execOrAlImm8 (p : Prefixes) (v : Byte) (s : State) : StepResult :=
  perform (.orAlImm8 p v) (orH (.reg (accum .w8)) (.imm v)) s

/-- OR `0D iz` (R231). -/
def execOrEaxImm (p : Prefixes) (v : ImmZ) (s : State) : StepResult :=
  perform (.orEaxImm p v) (orH (.reg (accum (opWidth p))) (.imm (immZ (opWidth p) v))) s

/-- OR `80 /1 ib` (R231). -/
def execOrRm8Imm8 (p : Prefixes) (rm : RM Reg8) (v : Byte) (s : State) : StepResult :=
  perform (.orRm8Imm8 p rm v) (orH (rmPlace8 rm) (.imm v)) s

/-- OR `81 /1 iz` (R231). -/
def execOrRmImm (p : Prefixes) (rm : RM Reg) (v : ImmZ) (s : State) : StepResult :=
  perform (.orRmImm p rm v) (orH (rmPlace (opWidth p) rm) (.imm (immZ (opWidth p) v))) s

/-- OR `83 /1 ib` (R231). -/
def execOrRmImm8 (p : Prefixes) (rm : RM Reg) (v : Byte) (s : State) : StepResult :=
  perform (.orRmImm8 p rm v) (orH (rmPlace (opWidth p) rm) (.imm (v.signExtend (opWidth p).bits))) s

/-- AND `20 /r` (R230). -/
def execAndRm8R8 (p : Prefixes) (rm : RM Reg8) (r : Reg8) (s : State) : StepResult :=
  perform (.andRm8R8 p rm r) (andH (rmPlace8 rm) (.place (.reg (.b r)))) s

/-- AND `21 /r` (R230). -/
def execAndRmR (p : Prefixes) (rm : RM Reg) (r : Reg) (s : State) : StepResult :=
  perform (.andRmR p rm r) (andH (rmPlace (opWidth p) rm) (.place (.reg (regView (opWidth p) r)))) s

/-- AND `22 /r` (R230). -/
def execAndR8Rm8 (p : Prefixes) (r : Reg8) (rm : RM Reg8) (s : State) : StepResult :=
  perform (.andR8Rm8 p r rm) (andH (.reg (.b r)) (.place (rmPlace8 rm))) s

/-- AND `23 /r` (R230). -/
def execAndRRm (p : Prefixes) (r : Reg) (rm : RM Reg) (s : State) : StepResult :=
  perform (.andRRm p r rm) (andH (.reg (regView (opWidth p) r)) (.place (rmPlace (opWidth p) rm))) s

/-- AND `24 ib` (R230). -/
def execAndAlImm8 (p : Prefixes) (v : Byte) (s : State) : StepResult :=
  perform (.andAlImm8 p v) (andH (.reg (accum .w8)) (.imm v)) s

/-- AND `25 iz` (R230). -/
def execAndEaxImm (p : Prefixes) (v : ImmZ) (s : State) : StepResult :=
  perform (.andEaxImm p v) (andH (.reg (accum (opWidth p))) (.imm (immZ (opWidth p) v))) s

/-- AND `80 /4 ib` (R230). -/
def execAndRm8Imm8 (p : Prefixes) (rm : RM Reg8) (v : Byte) (s : State) : StepResult :=
  perform (.andRm8Imm8 p rm v) (andH (rmPlace8 rm) (.imm v)) s

/-- AND `81 /4 iz` (R230). -/
def execAndRmImm (p : Prefixes) (rm : RM Reg) (v : ImmZ) (s : State) : StepResult :=
  perform (.andRmImm p rm v) (andH (rmPlace (opWidth p) rm) (.imm (immZ (opWidth p) v))) s

/-- AND `83 /4 ib` (R230). -/
def execAndRmImm8 (p : Prefixes) (rm : RM Reg) (v : Byte) (s : State) : StepResult :=
  perform (.andRmImm8 p rm v) (andH (rmPlace (opWidth p) rm) (.imm (v.signExtend (opWidth p).bits))) s

/-- XOR `30 /r` (R232). -/
def execXorRm8R8 (p : Prefixes) (rm : RM Reg8) (r : Reg8) (s : State) : StepResult :=
  perform (.xorRm8R8 p rm r) (xorH (rmPlace8 rm) (.place (.reg (.b r)))) s

/-- XOR `31 /r` (R232). -/
def execXorRmR (p : Prefixes) (rm : RM Reg) (r : Reg) (s : State) : StepResult :=
  perform (.xorRmR p rm r) (xorH (rmPlace (opWidth p) rm) (.place (.reg (regView (opWidth p) r)))) s

/-- XOR `32 /r` (R232). -/
def execXorR8Rm8 (p : Prefixes) (r : Reg8) (rm : RM Reg8) (s : State) : StepResult :=
  perform (.xorR8Rm8 p r rm) (xorH (.reg (.b r)) (.place (rmPlace8 rm))) s

/-- XOR `33 /r` (R232). -/
def execXorRRm (p : Prefixes) (r : Reg) (rm : RM Reg) (s : State) : StepResult :=
  perform (.xorRRm p r rm) (xorH (.reg (regView (opWidth p) r)) (.place (rmPlace (opWidth p) rm))) s

/-- XOR `34 ib` (R232). -/
def execXorAlImm8 (p : Prefixes) (v : Byte) (s : State) : StepResult :=
  perform (.xorAlImm8 p v) (xorH (.reg (accum .w8)) (.imm v)) s

/-- XOR `35 iz` (R232). -/
def execXorEaxImm (p : Prefixes) (v : ImmZ) (s : State) : StepResult :=
  perform (.xorEaxImm p v) (xorH (.reg (accum (opWidth p))) (.imm (immZ (opWidth p) v))) s

/-- XOR `80 /6 ib` (R232). -/
def execXorRm8Imm8 (p : Prefixes) (rm : RM Reg8) (v : Byte) (s : State) : StepResult :=
  perform (.xorRm8Imm8 p rm v) (xorH (rmPlace8 rm) (.imm v)) s

/-- XOR `81 /6 iz` (R232). -/
def execXorRmImm (p : Prefixes) (rm : RM Reg) (v : ImmZ) (s : State) : StepResult :=
  perform (.xorRmImm p rm v) (xorH (rmPlace (opWidth p) rm) (.imm (immZ (opWidth p) v))) s

/-- XOR `83 /6 ib` (R232). -/
def execXorRmImm8 (p : Prefixes) (rm : RM Reg) (v : Byte) (s : State) : StepResult :=
  perform (.xorRmImm8 p rm v) (xorH (rmPlace (opWidth p) rm) (.imm (v.signExtend (opWidth p).bits))) s

/-- TEST `F6 /0 ib` (R233). -/
def execTestRm8Imm8 (p : Prefixes) (rm : RM Reg8) (v : Byte) (s : State) : StepResult :=
  perform (.testRm8Imm8 p rm v) (testH (rmPlace8 rm) (.imm v)) s

/-- NOT `F6 /2` (R234). -/
def execNotRm8 (p : Prefixes) (rm : RM Reg8) (s : State) : StepResult :=
  perform (.notRm8 p rm) (notH (rmPlace8 rm)) s

/-- TEST `F7 /0 iz` (R233). -/
def execTestRmImm (p : Prefixes) (rm : RM Reg) (v : ImmZ) (s : State) : StepResult :=
  perform (.testRmImm p rm v) (testH (rmPlace (opWidth p) rm) (.imm (immZ (opWidth p) v))) s

/-- NOT `F7 /2` (R234). -/
def execNotRm (p : Prefixes) (rm : RM Reg) (s : State) : StepResult :=
  perform (.notRm p rm) (notH (rmPlace (opWidth p) rm)) s

/-- TEST `84 /r` (R233). -/
def execTestRm8R8 (p : Prefixes) (rm : RM Reg8) (r : Reg8) (s : State) : StepResult :=
  perform (.testRm8R8 p rm r) (testH (rmPlace8 rm) (.place (.reg (.b r)))) s

/-- TEST `85 /r` (R233). -/
def execTestRmR (p : Prefixes) (rm : RM Reg) (r : Reg) (s : State) : StepResult :=
  perform (.testRmR p rm r) (testH (rmPlace (opWidth p) rm) (.place (.reg (regView (opWidth p) r)))) s

/-- TEST `A8 ib` (R233). -/
def execTestAlImm8 (p : Prefixes) (v : Byte) (s : State) : StepResult :=
  perform (.testAlImm8 p v) (testH (.reg (accum .w8)) (.imm v)) s

/-- TEST `A9 iz` (R233). -/
def execTestEaxImm (p : Prefixes) (v : ImmZ) (s : State) : StepResult :=
  perform (.testEaxImm p v) (testH (.reg (accum (opWidth p))) (.imm (immZ (opWidth p) v))) s

end Sys2Proof.Machine
end

