-- ==== Sys2Proof/Machine/MulDiv.lean ====
section
/-! DEFINITION. Multiply and divide (43_multiply_divide.md R250 to R256): the handlers, then one meaning for each row. -/

namespace Sys2Proof.Machine

/-- The writes of a 2w-bit product (R250): AX; DX and AX; EDX and EAX. -/
def writeProduct (w : Width) (p : Nat) : List RegWrite :=
  match w with
  | .w8 => [⟨.w16, .w .eax, BitVec.ofNat 16 p⟩]
  | .w16 => [⟨.w16, .w .edx, BitVec.ofNat 16 (p / 2 ^ 16)⟩, ⟨.w16, .w .eax, BitVec.ofNat 16 p⟩]
  | .w32 => [⟨.w32, .d .edx, BitVec.ofNat 32 (p / 2 ^ 32)⟩, ⟨.w32, .d .eax, BitVec.ofNat 32 p⟩]

/-- The 2w-bit dividend (R254): AX; DX ++ AX; EDX ++ EAX. -/
def dividend (w : Width) (x : RegFile) : Nat :=
  match w with
  | .w8 => (x.readView (.w .eax)).toNat
  | .w16 => (x.readView (.w .edx)).toNat * 2 ^ 16 + (x.readView (.w .eax)).toNat
  | .w32 => (x.get .edx).toNat * 2 ^ 32 + (x.get .eax).toNat

/-- The writes of quotient and remainder (R254): AL and AH; AX and DX; EAX and EDX. -/
def writeQuotient (w : Width) (q r : BitVec w.bits) : List RegWrite :=
  match w with
  | .w8 => [⟨.w8, .b .al, q⟩, ⟨.w8, .b .ah, r⟩]
  | .w16 => [⟨.w16, .w .eax, q⟩, ⟨.w16, .w .edx, r⟩]
  | .w32 => [⟨.w32, .d .eax, q⟩, ⟨.w32, .d .edx, r⟩]

/-- MUL (R250). -/
def mulH {w : Width} (src : Place w) : Handler := fun s _ => do
  let b ← readPlace s src
  let a := s.regs.readView (accum w)
  let p := a.toNat * b.toNat
  let wide := p / 2 ^ w.bits != 0
  .ok { regs := writeProduct w p
        flags := [(.CF, wide), (.OF, wide)] ++ undefFlags .MUL (some w) [a.toNat, b.toNat] s.flags [.SF, .ZF, .AF, .PF] }

/-- IMUL with one operand (R251). -/
def imulH {w : Width} (src : Place w) : Handler := fun s _ => do
  let b ← readPlace s src
  let a := s.regs.readView (accum w)
  let p := BitVec.ofInt (2 * w.bits) (a.toInt * b.toInt)
  let wide := p.toInt != (p.setWidth w.bits).toInt
  .ok { regs := writeProduct w p.toNat
        flags := [(.CF, wide), (.OF, wide)] ++ undefFlags .IMUL (some w) [a.toNat, b.toNat] s.flags [.SF, .ZF, .AF, .PF] }

/-- The effect of a truncating signed product of two factors on a destination (R252, R253). -/
def imulTo {w : Width} (s : State) (dst : Place w) (a b : BitVec w.bits) : Effect :=
  let p := a.toInt * b.toInt
  let r := BitVec.ofInt w.bits p
  let wide := p != r.toInt
  (stage s dst r).withFlags
    ([(.CF, wide), (.OF, wide)] ++ undefFlags .IMUL (some w) [a.toNat, b.toNat] s.flags [.SF, .ZF, .AF, .PF])

/-- IMUL with two operands (R252). -/
def imul2H {w : Width} (dst : Place w) (src : Operand w) : Handler := fun s _ => do
  let a ← readPlace s dst
  let b ← readOperand s src
  .ok (imulTo s dst a b)

/-- IMUL with three operands (R253): dst is not read. -/
def imul3H {w : Width} (dst src : Place w) (imm : Operand w) : Handler := fun s _ => do
  let b ← readPlace s src
  let c ← readOperand s imm
  .ok (imulTo s dst b c)

/-- The flags after a division: all six undefined (R254). -/
def divFlags (m : Mnemonic) (w : Width) (n d : Nat) (x : Flags) : List (Flag × Bool) :=
  undefFlags m (some w) [n, d] x [.CF, .OF, .SF, .ZF, .AF, .PF]

/-- DIV (R254). -/
def divH {w : Width} (src : Place w) : Handler := fun s _ => do
  let d ← readPlace s src
  let n := dividend w s.regs
  if d.toNat = 0 then .error (.divideError s.eip)
  else if 2 ^ w.bits ≤ n / d.toNat then .error (.divideError s.eip)
  else
    .ok { regs := writeQuotient w (BitVec.ofNat w.bits (n / d.toNat)) (BitVec.ofNat w.bits (n % d.toNat))
          flags := divFlags .DIV w n d.toNat s.flags }

/-- IDIV (R255): the quotient is truncated toward zero. -/
def idivH {w : Width} (src : Place w) : Handler := fun s _ => do
  let v ← readPlace s src
  let d := v.toInt
  let n := (BitVec.ofNat (2 * w.bits) (dividend w s.regs)).toInt
  let q := n.tdiv d
  if d = 0 then .error (.divideError s.eip)
  else if q < -(2 ^ (w.bits - 1) : Int) ∨ (2 ^ (w.bits - 1) : Int) - 1 < q then .error (.divideError s.eip)
  else
    .ok { regs := writeQuotient w (BitVec.ofInt w.bits q) (BitVec.ofInt w.bits (n - q * d))
          flags := divFlags .IDIV w (dividend w s.regs) v.toNat s.flags }

/-- MUL `F6 /4` (R250). -/
def execMulRm8 (p : Prefixes) (rm : RM Reg8) (s : State) : StepResult :=
  perform (.mulRm8 p rm) (mulH (rmPlace8 rm)) s

/-- IMUL `F6 /5` (R251). -/
def execImulRm8 (p : Prefixes) (rm : RM Reg8) (s : State) : StepResult :=
  perform (.imulRm8 p rm) (imulH (rmPlace8 rm)) s

/-- DIV `F6 /6` (R254). -/
def execDivRm8 (p : Prefixes) (rm : RM Reg8) (s : State) : StepResult :=
  perform (.divRm8 p rm) (divH (rmPlace8 rm)) s

/-- IDIV `F6 /7` (R255). -/
def execIdivRm8 (p : Prefixes) (rm : RM Reg8) (s : State) : StepResult :=
  perform (.idivRm8 p rm) (idivH (rmPlace8 rm)) s

/-- MUL `F7 /4` (R250). -/
def execMulRm (p : Prefixes) (rm : RM Reg) (s : State) : StepResult :=
  perform (.mulRm p rm) (mulH (rmPlace (opWidth p) rm)) s

/-- IMUL `F7 /5` (R251). -/
def execImulRm (p : Prefixes) (rm : RM Reg) (s : State) : StepResult :=
  perform (.imulRm p rm) (imulH (rmPlace (opWidth p) rm)) s

/-- DIV `F7 /6` (R254). -/
def execDivRm (p : Prefixes) (rm : RM Reg) (s : State) : StepResult :=
  perform (.divRm p rm) (divH (rmPlace (opWidth p) rm)) s

/-- IDIV `F7 /7` (R255). -/
def execIdivRm (p : Prefixes) (rm : RM Reg) (s : State) : StepResult :=
  perform (.idivRm p rm) (idivH (rmPlace (opWidth p) rm)) s

/-- IMUL `0F AF /r` (R252). -/
def execImulRRm (p : Prefixes) (r : Reg) (rm : RM Reg) (s : State) : StepResult :=
  perform (.imulRRm p r rm) (imul2H (.reg (regView (opWidth p) r)) (.place (rmPlace (opWidth p) rm))) s

/-- IMUL `69 /r iz` (R253). -/
def execImulRRmImm (p : Prefixes) (r : Reg) (rm : RM Reg) (v : ImmZ) (s : State) : StepResult :=
  perform (.imulRRmImm p r rm v) (imul3H (.reg (regView (opWidth p) r)) (rmPlace (opWidth p) rm) (.imm (immZ (opWidth p) v))) s

/-- IMUL `6B /r ib` (R253). -/
def execImulRRmImm8 (p : Prefixes) (r : Reg) (rm : RM Reg) (v : Byte) (s : State) : StepResult :=
  perform (.imulRRmImm8 p r rm v) (imul3H (.reg (regView (opWidth p) r)) (rmPlace (opWidth p) rm) (.imm (v.signExtend (opWidth p).bits))) s

end Sys2Proof.Machine
end

