-- ==== Sys2Proof/Machine/ShiftRotate.lean ====
section
/-! DEFINITION. Shift and rotate (44_shift_rotate.md R270 to R278): the handlers, then one meaning for each row. -/

namespace Sys2Proof.Machine

/-- A result and the flags written with it. -/
abbrev Shifted (w : Width) := BitVec w.bits × List (Flag × Bool)

/-- The common form (R270): the count is masked to five bits; a masked count of 0 writes dst back with its own value and no
flag. `f` gets the value, the masked count, the old flags and the draw for an undefined flag. -/
def shiftBy {w : Width} (m : Mnemonic) (f : BitVec w.bits → Nat → Flags → (Flag → Bool) → Shifted w)
    (dst : Place w) (count : Operand .w8) : Handler := fun s _ => do
  let d ← readPlace s dst
  let n ← readOperand s count
  let c := (n &&& 0x1F#8).toNat
  if c = 0 then .ok (stage s dst d)
  else
    let x := f d c s.flags (undefFlag m (some w) [d.toNat, n.toNat] s.flags)
    .ok ((stage s dst x.1).withFlags x.2)

/-- SHL (R271) of a count that is not 0. -/
def shlResult {w : Width} (d : BitVec w.bits) (c : Nat) (_ : Flags) (u : Flag → Bool) : Shifted w :=
  let r := d <<< c
  let cf := if c ≤ w.bits then d.getLsbD (w.bits - c) else false
  (r, [(.CF, cf), (.OF, if c = 1 then r.msb ^^ cf else u .OF), (.AF, u .AF)] ++ resultFlags r)

/-- SHR (R272) of a count that is not 0. -/
def shrResult {w : Width} (d : BitVec w.bits) (c : Nat) (_ : Flags) (u : Flag → Bool) : Shifted w :=
  let r := d >>> c
  let cf := if c ≤ w.bits then d.getLsbD (c - 1) else false
  (r, [(.CF, cf), (.OF, if c = 1 then d.msb else u .OF), (.AF, u .AF)] ++ resultFlags r)

/-- SAR (R273) of a count that is not 0. -/
def sarResult {w : Width} (d : BitVec w.bits) (c : Nat) (_ : Flags) (u : Flag → Bool) : Shifted w :=
  let r := d.sshiftRight c
  let cf := if c < w.bits then d.getLsbD (c - 1) else d.msb
  (r, [(.CF, cf), (.OF, if c = 1 then false else u .OF), (.AF, u .AF)] ++ resultFlags r)

/-- ROL (R274) of a count that is not 0. -/
def rolResult {w : Width} (d : BitVec w.bits) (c : Nat) (_ : Flags) (u : Flag → Bool) : Shifted w :=
  let t := c % w.bits
  let r := (d <<< t) ||| (d >>> (w.bits - t))
  (r, [(.CF, r.getLsbD 0), (.OF, if c = 1 then r.msb ^^ r.getLsbD 0 else u .OF)])

/-- ROR (R275) of a count that is not 0. -/
def rorResult {w : Width} (d : BitVec w.bits) (c : Nat) (_ : Flags) (u : Flag → Bool) : Shifted w :=
  let t := c % w.bits
  let r := (d >>> t) ||| (d <<< (w.bits - t))
  (r, [(.CF, r.msb), (.OF, if c = 1 then r.msb ^^ r.getLsbD (w.bits - 2) else u .OF)])

/-- The rotate count through carry (R276): reduced modulo w + 1 at widths 8 and 16. -/
def carryCount (w : Width) (c : Nat) : Nat := if w = .w32 then c else c % (w.bits + 1)

/-- RCL (R276) of a count that is not 0, on the (w+1)-bit value `CF ++ d`. -/
def rclResult {w : Width} (d : BitVec w.bits) (c : Nat) (x : Flags) (u : Flag → Bool) : Shifted w :=
  let t := carryCount w c
  let v := BitVec.cons x.CF d
  let v' := (v <<< t) ||| (v >>> (w.bits + 1 - t))
  let r := v'.setWidth w.bits
  (r, [(.CF, v'.msb), (.OF, if c = 1 then r.msb ^^ v'.msb else u .OF)])

/-- RCR (R277) of a count that is not 0, on the (w+1)-bit value `CF ++ d`; OF is from the values before rotating. -/
def rcrResult {w : Width} (d : BitVec w.bits) (c : Nat) (x : Flags) (u : Flag → Bool) : Shifted w :=
  let t := carryCount w c
  let v := BitVec.cons x.CF d
  let v' := (v >>> t) ||| (v <<< (w.bits + 1 - t))
  (v'.setWidth w.bits, [(.CF, v'.msb), (.OF, if c = 1 then d.msb ^^ x.CF else u .OF)])

/-- SHL (R271). -/
def shlH {w : Width} (dst : Place w) (count : Operand .w8) : Handler := shiftBy .SHL shlResult dst count

/-- SHR (R272). -/
def shrH {w : Width} (dst : Place w) (count : Operand .w8) : Handler := shiftBy .SHR shrResult dst count

/-- SAR (R273). -/
def sarH {w : Width} (dst : Place w) (count : Operand .w8) : Handler := shiftBy .SAR sarResult dst count

/-- ROL (R274). -/
def rolH {w : Width} (dst : Place w) (count : Operand .w8) : Handler := shiftBy .ROL rolResult dst count

/-- ROR (R275). -/
def rorH {w : Width} (dst : Place w) (count : Operand .w8) : Handler := shiftBy .ROR rorResult dst count

/-- RCL (R276). -/
def rclH {w : Width} (dst : Place w) (count : Operand .w8) : Handler := shiftBy .RCL rclResult dst count

/-- RCR (R277). -/
def rcrH {w : Width} (dst : Place w) (count : Operand .w8) : Handler := shiftBy .RCR rcrResult dst count

/-- ROL `C0 /0 ib` (R274). -/
def execRolRm8Imm8 (p : Prefixes) (rm : RM Reg8) (v : Byte) (s : State) : StepResult :=
  perform (.rolRm8Imm8 p rm v) (rolH (rmPlace8 rm) (.imm (w := .w8) v)) s

/-- ROL `C1 /0 ib` (R274). -/
def execRolRmImm8 (p : Prefixes) (rm : RM Reg) (v : Byte) (s : State) : StepResult :=
  perform (.rolRmImm8 p rm v) (rolH (rmPlace (opWidth p) rm) (.imm (w := .w8) v)) s

/-- ROL `D0 /0` (R274). -/
def execRolRm8One (p : Prefixes) (rm : RM Reg8) (s : State) : StepResult :=
  perform (.rolRm8One p rm) (rolH (rmPlace8 rm) (.imm 1#8)) s

/-- ROL `D1 /0` (R274). -/
def execRolRmOne (p : Prefixes) (rm : RM Reg) (s : State) : StepResult :=
  perform (.rolRmOne p rm) (rolH (rmPlace (opWidth p) rm) (.imm 1#8)) s

/-- ROL `D2 /0` (R274). -/
def execRolRm8Cl (p : Prefixes) (rm : RM Reg8) (s : State) : StepResult :=
  perform (.rolRm8Cl p rm) (rolH (rmPlace8 rm) (.place (.reg (.b .cl)))) s

/-- ROL `D3 /0` (R274). -/
def execRolRmCl (p : Prefixes) (rm : RM Reg) (s : State) : StepResult :=
  perform (.rolRmCl p rm) (rolH (rmPlace (opWidth p) rm) (.place (.reg (.b .cl)))) s

/-- ROR `C0 /1 ib` (R275). -/
def execRorRm8Imm8 (p : Prefixes) (rm : RM Reg8) (v : Byte) (s : State) : StepResult :=
  perform (.rorRm8Imm8 p rm v) (rorH (rmPlace8 rm) (.imm (w := .w8) v)) s

/-- ROR `C1 /1 ib` (R275). -/
def execRorRmImm8 (p : Prefixes) (rm : RM Reg) (v : Byte) (s : State) : StepResult :=
  perform (.rorRmImm8 p rm v) (rorH (rmPlace (opWidth p) rm) (.imm (w := .w8) v)) s

/-- ROR `D0 /1` (R275). -/
def execRorRm8One (p : Prefixes) (rm : RM Reg8) (s : State) : StepResult :=
  perform (.rorRm8One p rm) (rorH (rmPlace8 rm) (.imm 1#8)) s

/-- ROR `D1 /1` (R275). -/
def execRorRmOne (p : Prefixes) (rm : RM Reg) (s : State) : StepResult :=
  perform (.rorRmOne p rm) (rorH (rmPlace (opWidth p) rm) (.imm 1#8)) s

/-- ROR `D2 /1` (R275). -/
def execRorRm8Cl (p : Prefixes) (rm : RM Reg8) (s : State) : StepResult :=
  perform (.rorRm8Cl p rm) (rorH (rmPlace8 rm) (.place (.reg (.b .cl)))) s

/-- ROR `D3 /1` (R275). -/
def execRorRmCl (p : Prefixes) (rm : RM Reg) (s : State) : StepResult :=
  perform (.rorRmCl p rm) (rorH (rmPlace (opWidth p) rm) (.place (.reg (.b .cl)))) s

/-- RCL `C0 /2 ib` (R276). -/
def execRclRm8Imm8 (p : Prefixes) (rm : RM Reg8) (v : Byte) (s : State) : StepResult :=
  perform (.rclRm8Imm8 p rm v) (rclH (rmPlace8 rm) (.imm (w := .w8) v)) s

/-- RCL `C1 /2 ib` (R276). -/
def execRclRmImm8 (p : Prefixes) (rm : RM Reg) (v : Byte) (s : State) : StepResult :=
  perform (.rclRmImm8 p rm v) (rclH (rmPlace (opWidth p) rm) (.imm (w := .w8) v)) s

/-- RCL `D0 /2` (R276). -/
def execRclRm8One (p : Prefixes) (rm : RM Reg8) (s : State) : StepResult :=
  perform (.rclRm8One p rm) (rclH (rmPlace8 rm) (.imm 1#8)) s

/-- RCL `D1 /2` (R276). -/
def execRclRmOne (p : Prefixes) (rm : RM Reg) (s : State) : StepResult :=
  perform (.rclRmOne p rm) (rclH (rmPlace (opWidth p) rm) (.imm 1#8)) s

/-- RCL `D2 /2` (R276). -/
def execRclRm8Cl (p : Prefixes) (rm : RM Reg8) (s : State) : StepResult :=
  perform (.rclRm8Cl p rm) (rclH (rmPlace8 rm) (.place (.reg (.b .cl)))) s

/-- RCL `D3 /2` (R276). -/
def execRclRmCl (p : Prefixes) (rm : RM Reg) (s : State) : StepResult :=
  perform (.rclRmCl p rm) (rclH (rmPlace (opWidth p) rm) (.place (.reg (.b .cl)))) s

/-- RCR `C0 /3 ib` (R277). -/
def execRcrRm8Imm8 (p : Prefixes) (rm : RM Reg8) (v : Byte) (s : State) : StepResult :=
  perform (.rcrRm8Imm8 p rm v) (rcrH (rmPlace8 rm) (.imm (w := .w8) v)) s

/-- RCR `C1 /3 ib` (R277). -/
def execRcrRmImm8 (p : Prefixes) (rm : RM Reg) (v : Byte) (s : State) : StepResult :=
  perform (.rcrRmImm8 p rm v) (rcrH (rmPlace (opWidth p) rm) (.imm (w := .w8) v)) s

/-- RCR `D0 /3` (R277). -/
def execRcrRm8One (p : Prefixes) (rm : RM Reg8) (s : State) : StepResult :=
  perform (.rcrRm8One p rm) (rcrH (rmPlace8 rm) (.imm 1#8)) s

/-- RCR `D1 /3` (R277). -/
def execRcrRmOne (p : Prefixes) (rm : RM Reg) (s : State) : StepResult :=
  perform (.rcrRmOne p rm) (rcrH (rmPlace (opWidth p) rm) (.imm 1#8)) s

/-- RCR `D2 /3` (R277). -/
def execRcrRm8Cl (p : Prefixes) (rm : RM Reg8) (s : State) : StepResult :=
  perform (.rcrRm8Cl p rm) (rcrH (rmPlace8 rm) (.place (.reg (.b .cl)))) s

/-- RCR `D3 /3` (R277). -/
def execRcrRmCl (p : Prefixes) (rm : RM Reg) (s : State) : StepResult :=
  perform (.rcrRmCl p rm) (rcrH (rmPlace (opWidth p) rm) (.place (.reg (.b .cl)))) s

/-- SHL `C0 /4 ib` (R271). -/
def execShlRm8Imm8 (p : Prefixes) (rm : RM Reg8) (v : Byte) (s : State) : StepResult :=
  perform (.shlRm8Imm8 p rm v) (shlH (rmPlace8 rm) (.imm (w := .w8) v)) s

/-- SHL `C1 /4 ib` (R271). -/
def execShlRmImm8 (p : Prefixes) (rm : RM Reg) (v : Byte) (s : State) : StepResult :=
  perform (.shlRmImm8 p rm v) (shlH (rmPlace (opWidth p) rm) (.imm (w := .w8) v)) s

/-- SHL `D0 /4` (R271). -/
def execShlRm8One (p : Prefixes) (rm : RM Reg8) (s : State) : StepResult :=
  perform (.shlRm8One p rm) (shlH (rmPlace8 rm) (.imm 1#8)) s

/-- SHL `D1 /4` (R271). -/
def execShlRmOne (p : Prefixes) (rm : RM Reg) (s : State) : StepResult :=
  perform (.shlRmOne p rm) (shlH (rmPlace (opWidth p) rm) (.imm 1#8)) s

/-- SHL `D2 /4` (R271). -/
def execShlRm8Cl (p : Prefixes) (rm : RM Reg8) (s : State) : StepResult :=
  perform (.shlRm8Cl p rm) (shlH (rmPlace8 rm) (.place (.reg (.b .cl)))) s

/-- SHL `D3 /4` (R271). -/
def execShlRmCl (p : Prefixes) (rm : RM Reg) (s : State) : StepResult :=
  perform (.shlRmCl p rm) (shlH (rmPlace (opWidth p) rm) (.place (.reg (.b .cl)))) s

/-- SHR `C0 /5 ib` (R272). -/
def execShrRm8Imm8 (p : Prefixes) (rm : RM Reg8) (v : Byte) (s : State) : StepResult :=
  perform (.shrRm8Imm8 p rm v) (shrH (rmPlace8 rm) (.imm (w := .w8) v)) s

/-- SHR `C1 /5 ib` (R272). -/
def execShrRmImm8 (p : Prefixes) (rm : RM Reg) (v : Byte) (s : State) : StepResult :=
  perform (.shrRmImm8 p rm v) (shrH (rmPlace (opWidth p) rm) (.imm (w := .w8) v)) s

/-- SHR `D0 /5` (R272). -/
def execShrRm8One (p : Prefixes) (rm : RM Reg8) (s : State) : StepResult :=
  perform (.shrRm8One p rm) (shrH (rmPlace8 rm) (.imm 1#8)) s

/-- SHR `D1 /5` (R272). -/
def execShrRmOne (p : Prefixes) (rm : RM Reg) (s : State) : StepResult :=
  perform (.shrRmOne p rm) (shrH (rmPlace (opWidth p) rm) (.imm 1#8)) s

/-- SHR `D2 /5` (R272). -/
def execShrRm8Cl (p : Prefixes) (rm : RM Reg8) (s : State) : StepResult :=
  perform (.shrRm8Cl p rm) (shrH (rmPlace8 rm) (.place (.reg (.b .cl)))) s

/-- SHR `D3 /5` (R272). -/
def execShrRmCl (p : Prefixes) (rm : RM Reg) (s : State) : StepResult :=
  perform (.shrRmCl p rm) (shrH (rmPlace (opWidth p) rm) (.place (.reg (.b .cl)))) s

/-- SAR `C0 /7 ib` (R273). -/
def execSarRm8Imm8 (p : Prefixes) (rm : RM Reg8) (v : Byte) (s : State) : StepResult :=
  perform (.sarRm8Imm8 p rm v) (sarH (rmPlace8 rm) (.imm (w := .w8) v)) s

/-- SAR `C1 /7 ib` (R273). -/
def execSarRmImm8 (p : Prefixes) (rm : RM Reg) (v : Byte) (s : State) : StepResult :=
  perform (.sarRmImm8 p rm v) (sarH (rmPlace (opWidth p) rm) (.imm (w := .w8) v)) s

/-- SAR `D0 /7` (R273). -/
def execSarRm8One (p : Prefixes) (rm : RM Reg8) (s : State) : StepResult :=
  perform (.sarRm8One p rm) (sarH (rmPlace8 rm) (.imm 1#8)) s

/-- SAR `D1 /7` (R273). -/
def execSarRmOne (p : Prefixes) (rm : RM Reg) (s : State) : StepResult :=
  perform (.sarRmOne p rm) (sarH (rmPlace (opWidth p) rm) (.imm 1#8)) s

/-- SAR `D2 /7` (R273). -/
def execSarRm8Cl (p : Prefixes) (rm : RM Reg8) (s : State) : StepResult :=
  perform (.sarRm8Cl p rm) (sarH (rmPlace8 rm) (.place (.reg (.b .cl)))) s

/-- SAR `D3 /7` (R273). -/
def execSarRmCl (p : Prefixes) (rm : RM Reg) (s : State) : StepResult :=
  perform (.sarRmCl p rm) (sarH (rmPlace (opWidth p) rm) (.place (.reg (.b .cl)))) s

end Sys2Proof.Machine
end

