-- ==== Sys2Proof/Machine/StringFlags.lean ====
section
/-! DEFINITION. String compare and flag control (48_string_and_flags.md R390 to R399): the handlers, then one meaning for each row. -/

namespace Sys2Proof.Machine

/-- The step of ESI and EDI, in bytes: up where DF = 0, down where DF = 1 (R390). -/
def stringStep (w : Width) (df : Bool) (a : Word) : Word :=
  if df then a - BitVec.ofNat 32 w.bytes else a + BitVec.ofNat 32 w.bytes

/-- CMPSB, CMPSW, CMPSD (R390): `[ESI]` is read before `[EDI]`, and the flags are those of `[ESI] - [EDI]`. -/
def cmpsH (w : Width) : Handler := fun s _ => do
  let a ← memRead s.mem w (s.regs.get .esi)
  let b ← memRead s.mem w (s.regs.get .edi)
  .ok { regs := [⟨.w32, .d .esi, stringStep w s.flags.DF (s.regs.get .esi)⟩,
                 ⟨.w32, .d .edi, stringStep w s.flags.DF (s.regs.get .edi)⟩]
        flags := (subF a b false).flags }

/-- CLC, STC, CLD, STD (R394, R395, R397, R398): "set or clear exactly one named flag". -/
def flagH (f : Flag) (b : Bool) : Handler := onState fun _ => { flags := [(f, b)] }

/-- CMC (R396). -/
def cmcH : Handler := onState fun s => { flags := [(.CF, !s.flags.CF)] }

/-- CMPSB `A6` (R391). -/
def execCmpsb (p : Prefixes) (s : State) : StepResult :=
  perform (.cmpsb p) (cmpsH .w8) s

/-- CMPSW `66 A7` (R392). -/
def execCmpsw (p : Prefixes) (s : State) : StepResult :=
  perform (.cmpsw p) (cmpsH .w16) s

/-- CMPSD `A7` (R393). -/
def execCmpsd (p : Prefixes) (s : State) : StepResult :=
  perform (.cmpsd p) (cmpsH .w32) s

/-- CLC `F8` (R394). -/
def execClc (p : Prefixes) (s : State) : StepResult :=
  perform (.clc p) (flagH .CF false) s

/-- STC `F9` (R395). -/
def execStc (p : Prefixes) (s : State) : StepResult :=
  perform (.stc p) (flagH .CF true) s

/-- CMC `F5` (R396). -/
def execCmc (p : Prefixes) (s : State) : StepResult :=
  perform (.cmc p) cmcH s

/-- CLD `FC` (R397). -/
def execCld (p : Prefixes) (s : State) : StepResult :=
  perform (.cld p) (flagH .DF false) s

/-- STD `FD` (R398). -/
def execStd (p : Prefixes) (s : State) : StepResult :=
  perform (.std p) (flagH .DF true) s

end Sys2Proof.Machine
end

