-- ==== Sys2Proof/Machine/Dispatch.lean ====
section
/-! DEFINITION. The SemanticDispatcher (40_execution.md R178): one arm for each constructor of Instr. -/

namespace Sys2Proof.Machine

def exec (i : Instr) (s : State) : Host.Outcome State Fault Refusal :=
  match i with
  | .addRm8R8 p rm r => Sys2Proof.Machine.execAddRm8R8 p rm r s
  | .addRmR p rm r => Sys2Proof.Machine.execAddRmR p rm r s
  | .addR8Rm8 p r rm => Sys2Proof.Machine.execAddR8Rm8 p r rm s
  | .addRRm p r rm => Sys2Proof.Machine.execAddRRm p r rm s
  | .addAlImm8 p v => Sys2Proof.Machine.execAddAlImm8 p v s
  | .addEaxImm p v => Sys2Proof.Machine.execAddEaxImm p v s
  | .addRm8Imm8 p rm v => Sys2Proof.Machine.execAddRm8Imm8 p rm v s
  | .addRmImm p rm v => Sys2Proof.Machine.execAddRmImm p rm v s
  | .addRmImm8 p rm v => Sys2Proof.Machine.execAddRmImm8 p rm v s
  | .orRm8R8 p rm r => Sys2Proof.Machine.execOrRm8R8 p rm r s
  | .orRmR p rm r => Sys2Proof.Machine.execOrRmR p rm r s
  | .orR8Rm8 p r rm => Sys2Proof.Machine.execOrR8Rm8 p r rm s
  | .orRRm p r rm => Sys2Proof.Machine.execOrRRm p r rm s
  | .orAlImm8 p v => Sys2Proof.Machine.execOrAlImm8 p v s
  | .orEaxImm p v => Sys2Proof.Machine.execOrEaxImm p v s
  | .orRm8Imm8 p rm v => Sys2Proof.Machine.execOrRm8Imm8 p rm v s
  | .orRmImm p rm v => Sys2Proof.Machine.execOrRmImm p rm v s
  | .orRmImm8 p rm v => Sys2Proof.Machine.execOrRmImm8 p rm v s
  | .adcRm8R8 p rm r => Sys2Proof.Machine.execAdcRm8R8 p rm r s
  | .adcRmR p rm r => Sys2Proof.Machine.execAdcRmR p rm r s
  | .adcR8Rm8 p r rm => Sys2Proof.Machine.execAdcR8Rm8 p r rm s
  | .adcRRm p r rm => Sys2Proof.Machine.execAdcRRm p r rm s
  | .adcAlImm8 p v => Sys2Proof.Machine.execAdcAlImm8 p v s
  | .adcEaxImm p v => Sys2Proof.Machine.execAdcEaxImm p v s
  | .adcRm8Imm8 p rm v => Sys2Proof.Machine.execAdcRm8Imm8 p rm v s
  | .adcRmImm p rm v => Sys2Proof.Machine.execAdcRmImm p rm v s
  | .adcRmImm8 p rm v => Sys2Proof.Machine.execAdcRmImm8 p rm v s
  | .sbbRm8R8 p rm r => Sys2Proof.Machine.execSbbRm8R8 p rm r s
  | .sbbRmR p rm r => Sys2Proof.Machine.execSbbRmR p rm r s
  | .sbbR8Rm8 p r rm => Sys2Proof.Machine.execSbbR8Rm8 p r rm s
  | .sbbRRm p r rm => Sys2Proof.Machine.execSbbRRm p r rm s
  | .sbbAlImm8 p v => Sys2Proof.Machine.execSbbAlImm8 p v s
  | .sbbEaxImm p v => Sys2Proof.Machine.execSbbEaxImm p v s
  | .sbbRm8Imm8 p rm v => Sys2Proof.Machine.execSbbRm8Imm8 p rm v s
  | .sbbRmImm p rm v => Sys2Proof.Machine.execSbbRmImm p rm v s
  | .sbbRmImm8 p rm v => Sys2Proof.Machine.execSbbRmImm8 p rm v s
  | .andRm8R8 p rm r => Sys2Proof.Machine.execAndRm8R8 p rm r s
  | .andRmR p rm r => Sys2Proof.Machine.execAndRmR p rm r s
  | .andR8Rm8 p r rm => Sys2Proof.Machine.execAndR8Rm8 p r rm s
  | .andRRm p r rm => Sys2Proof.Machine.execAndRRm p r rm s
  | .andAlImm8 p v => Sys2Proof.Machine.execAndAlImm8 p v s
  | .andEaxImm p v => Sys2Proof.Machine.execAndEaxImm p v s
  | .andRm8Imm8 p rm v => Sys2Proof.Machine.execAndRm8Imm8 p rm v s
  | .andRmImm p rm v => Sys2Proof.Machine.execAndRmImm p rm v s
  | .andRmImm8 p rm v => Sys2Proof.Machine.execAndRmImm8 p rm v s
  | .subRm8R8 p rm r => Sys2Proof.Machine.execSubRm8R8 p rm r s
  | .subRmR p rm r => Sys2Proof.Machine.execSubRmR p rm r s
  | .subR8Rm8 p r rm => Sys2Proof.Machine.execSubR8Rm8 p r rm s
  | .subRRm p r rm => Sys2Proof.Machine.execSubRRm p r rm s
  | .subAlImm8 p v => Sys2Proof.Machine.execSubAlImm8 p v s
  | .subEaxImm p v => Sys2Proof.Machine.execSubEaxImm p v s
  | .subRm8Imm8 p rm v => Sys2Proof.Machine.execSubRm8Imm8 p rm v s
  | .subRmImm p rm v => Sys2Proof.Machine.execSubRmImm p rm v s
  | .subRmImm8 p rm v => Sys2Proof.Machine.execSubRmImm8 p rm v s
  | .xorRm8R8 p rm r => Sys2Proof.Machine.execXorRm8R8 p rm r s
  | .xorRmR p rm r => Sys2Proof.Machine.execXorRmR p rm r s
  | .xorR8Rm8 p r rm => Sys2Proof.Machine.execXorR8Rm8 p r rm s
  | .xorRRm p r rm => Sys2Proof.Machine.execXorRRm p r rm s
  | .xorAlImm8 p v => Sys2Proof.Machine.execXorAlImm8 p v s
  | .xorEaxImm p v => Sys2Proof.Machine.execXorEaxImm p v s
  | .xorRm8Imm8 p rm v => Sys2Proof.Machine.execXorRm8Imm8 p rm v s
  | .xorRmImm p rm v => Sys2Proof.Machine.execXorRmImm p rm v s
  | .xorRmImm8 p rm v => Sys2Proof.Machine.execXorRmImm8 p rm v s
  | .cmpRm8R8 p rm r => Sys2Proof.Machine.execCmpRm8R8 p rm r s
  | .cmpRmR p rm r => Sys2Proof.Machine.execCmpRmR p rm r s
  | .cmpR8Rm8 p r rm => Sys2Proof.Machine.execCmpR8Rm8 p r rm s
  | .cmpRRm p r rm => Sys2Proof.Machine.execCmpRRm p r rm s
  | .cmpAlImm8 p v => Sys2Proof.Machine.execCmpAlImm8 p v s
  | .cmpEaxImm p v => Sys2Proof.Machine.execCmpEaxImm p v s
  | .cmpRm8Imm8 p rm v => Sys2Proof.Machine.execCmpRm8Imm8 p rm v s
  | .cmpRmImm p rm v => Sys2Proof.Machine.execCmpRmImm p rm v s
  | .cmpRmImm8 p rm v => Sys2Proof.Machine.execCmpRmImm8 p rm v s
  | .incR p r => Sys2Proof.Machine.execIncR p r s
  | .decR p r => Sys2Proof.Machine.execDecR p r s
  | .incRm8 p rm => Sys2Proof.Machine.execIncRm8 p rm s
  | .decRm8 p rm => Sys2Proof.Machine.execDecRm8 p rm s
  | .incRm p rm => Sys2Proof.Machine.execIncRm p rm s
  | .decRm p rm => Sys2Proof.Machine.execDecRm p rm s
  | .testRm8Imm8 p rm v => Sys2Proof.Machine.execTestRm8Imm8 p rm v s
  | .notRm8 p rm => Sys2Proof.Machine.execNotRm8 p rm s
  | .negRm8 p rm => Sys2Proof.Machine.execNegRm8 p rm s
  | .mulRm8 p rm => Sys2Proof.Machine.execMulRm8 p rm s
  | .imulRm8 p rm => Sys2Proof.Machine.execImulRm8 p rm s
  | .divRm8 p rm => Sys2Proof.Machine.execDivRm8 p rm s
  | .idivRm8 p rm => Sys2Proof.Machine.execIdivRm8 p rm s
  | .testRmImm p rm v => Sys2Proof.Machine.execTestRmImm p rm v s
  | .notRm p rm => Sys2Proof.Machine.execNotRm p rm s
  | .negRm p rm => Sys2Proof.Machine.execNegRm p rm s
  | .mulRm p rm => Sys2Proof.Machine.execMulRm p rm s
  | .imulRm p rm => Sys2Proof.Machine.execImulRm p rm s
  | .divRm p rm => Sys2Proof.Machine.execDivRm p rm s
  | .idivRm p rm => Sys2Proof.Machine.execIdivRm p rm s
  | .imulRRm p r rm => Sys2Proof.Machine.execImulRRm p r rm s
  | .imulRRmImm p r rm v => Sys2Proof.Machine.execImulRRmImm p r rm v s
  | .imulRRmImm8 p r rm v => Sys2Proof.Machine.execImulRRmImm8 p r rm v s
  | .testRm8R8 p rm r => Sys2Proof.Machine.execTestRm8R8 p rm r s
  | .testRmR p rm r => Sys2Proof.Machine.execTestRmR p rm r s
  | .testAlImm8 p v => Sys2Proof.Machine.execTestAlImm8 p v s
  | .testEaxImm p v => Sys2Proof.Machine.execTestEaxImm p v s
  | .movRm8R8 p rm r => Sys2Proof.Machine.execMovRm8R8 p rm r s
  | .movRmR p rm r => Sys2Proof.Machine.execMovRmR p rm r s
  | .movR8Rm8 p r rm => Sys2Proof.Machine.execMovR8Rm8 p r rm s
  | .movRRm p r rm => Sys2Proof.Machine.execMovRRm p r rm s
  | .movR8Imm8 p r v => Sys2Proof.Machine.execMovR8Imm8 p r v s
  | .movRImm p r v => Sys2Proof.Machine.execMovRImm p r v s
  | .movRm8Imm8 p rm v => Sys2Proof.Machine.execMovRm8Imm8 p rm v s
  | .movRmImm p rm v => Sys2Proof.Machine.execMovRmImm p rm v s
  | .movAlMoffs p d => Sys2Proof.Machine.execMovAlMoffs p d s
  | .movEaxMoffs p d => Sys2Proof.Machine.execMovEaxMoffs p d s
  | .movMoffsAl p d => Sys2Proof.Machine.execMovMoffsAl p d s
  | .movMoffsEax p d => Sys2Proof.Machine.execMovMoffsEax p d s
  | .leaRM p r m => Sys2Proof.Machine.execLeaRM p r m s
  | .movzxRRm8 p r rm => Sys2Proof.Machine.execMovzxRRm8 p r rm s
  | .movzxRRm16 p r rm => Sys2Proof.Machine.execMovzxRRm16 p r rm s
  | .movsxRRm8 p r rm => Sys2Proof.Machine.execMovsxRRm8 p r rm s
  | .movsxRRm16 p r rm => Sys2Proof.Machine.execMovsxRRm16 p r rm s
  | .cbw p => Sys2Proof.Machine.execCbw p s
  | .cwde p => Sys2Proof.Machine.execCwde p s
  | .cwd p => Sys2Proof.Machine.execCwd p s
  | .cdq p => Sys2Proof.Machine.execCdq p s
  | .cmpsb p => Sys2Proof.Machine.execCmpsb p s
  | .cmpsw p => Sys2Proof.Machine.execCmpsw p s
  | .cmpsd p => Sys2Proof.Machine.execCmpsd p s
  | .clc p => Sys2Proof.Machine.execClc p s
  | .stc p => Sys2Proof.Machine.execStc p s
  | .cmc p => Sys2Proof.Machine.execCmc p s
  | .cld p => Sys2Proof.Machine.execCld p s
  | .std p => Sys2Proof.Machine.execStd p s
  | .aamImm8 p v => Sys2Proof.Machine.execAamImm8 p v s
  | .aadImm8 p v => Sys2Proof.Machine.execAadImm8 p v s
  | .rolRm8Imm8 p rm v => Sys2Proof.Machine.execRolRm8Imm8 p rm v s
  | .rolRmImm8 p rm v => Sys2Proof.Machine.execRolRmImm8 p rm v s
  | .rolRm8One p rm => Sys2Proof.Machine.execRolRm8One p rm s
  | .rolRmOne p rm => Sys2Proof.Machine.execRolRmOne p rm s
  | .rolRm8Cl p rm => Sys2Proof.Machine.execRolRm8Cl p rm s
  | .rolRmCl p rm => Sys2Proof.Machine.execRolRmCl p rm s
  | .rorRm8Imm8 p rm v => Sys2Proof.Machine.execRorRm8Imm8 p rm v s
  | .rorRmImm8 p rm v => Sys2Proof.Machine.execRorRmImm8 p rm v s
  | .rorRm8One p rm => Sys2Proof.Machine.execRorRm8One p rm s
  | .rorRmOne p rm => Sys2Proof.Machine.execRorRmOne p rm s
  | .rorRm8Cl p rm => Sys2Proof.Machine.execRorRm8Cl p rm s
  | .rorRmCl p rm => Sys2Proof.Machine.execRorRmCl p rm s
  | .rclRm8Imm8 p rm v => Sys2Proof.Machine.execRclRm8Imm8 p rm v s
  | .rclRmImm8 p rm v => Sys2Proof.Machine.execRclRmImm8 p rm v s
  | .rclRm8One p rm => Sys2Proof.Machine.execRclRm8One p rm s
  | .rclRmOne p rm => Sys2Proof.Machine.execRclRmOne p rm s
  | .rclRm8Cl p rm => Sys2Proof.Machine.execRclRm8Cl p rm s
  | .rclRmCl p rm => Sys2Proof.Machine.execRclRmCl p rm s
  | .rcrRm8Imm8 p rm v => Sys2Proof.Machine.execRcrRm8Imm8 p rm v s
  | .rcrRmImm8 p rm v => Sys2Proof.Machine.execRcrRmImm8 p rm v s
  | .rcrRm8One p rm => Sys2Proof.Machine.execRcrRm8One p rm s
  | .rcrRmOne p rm => Sys2Proof.Machine.execRcrRmOne p rm s
  | .rcrRm8Cl p rm => Sys2Proof.Machine.execRcrRm8Cl p rm s
  | .rcrRmCl p rm => Sys2Proof.Machine.execRcrRmCl p rm s
  | .shlRm8Imm8 p rm v => Sys2Proof.Machine.execShlRm8Imm8 p rm v s
  | .shlRmImm8 p rm v => Sys2Proof.Machine.execShlRmImm8 p rm v s
  | .shlRm8One p rm => Sys2Proof.Machine.execShlRm8One p rm s
  | .shlRmOne p rm => Sys2Proof.Machine.execShlRmOne p rm s
  | .shlRm8Cl p rm => Sys2Proof.Machine.execShlRm8Cl p rm s
  | .shlRmCl p rm => Sys2Proof.Machine.execShlRmCl p rm s
  | .shrRm8Imm8 p rm v => Sys2Proof.Machine.execShrRm8Imm8 p rm v s
  | .shrRmImm8 p rm v => Sys2Proof.Machine.execShrRmImm8 p rm v s
  | .shrRm8One p rm => Sys2Proof.Machine.execShrRm8One p rm s
  | .shrRmOne p rm => Sys2Proof.Machine.execShrRmOne p rm s
  | .shrRm8Cl p rm => Sys2Proof.Machine.execShrRm8Cl p rm s
  | .shrRmCl p rm => Sys2Proof.Machine.execShrRmCl p rm s
  | .sarRm8Imm8 p rm v => Sys2Proof.Machine.execSarRm8Imm8 p rm v s
  | .sarRmImm8 p rm v => Sys2Proof.Machine.execSarRmImm8 p rm v s
  | .sarRm8One p rm => Sys2Proof.Machine.execSarRm8One p rm s
  | .sarRmOne p rm => Sys2Proof.Machine.execSarRmOne p rm s
  | .sarRm8Cl p rm => Sys2Proof.Machine.execSarRm8Cl p rm s
  | .sarRmCl p rm => Sys2Proof.Machine.execSarRmCl p rm s
  | .callRel32 p d => Sys2Proof.Machine.execCallRel32 p d s
  | .callRm32 p rm => Sys2Proof.Machine.execCallRm32 p rm s
  | .ret p => Sys2Proof.Machine.execRet p s
  | .retImm16 p v => Sys2Proof.Machine.execRetImm16 p v s
  | .jmpRel8 p d => Sys2Proof.Machine.execJmpRel8 p d s
  | .jmpRel32 p d => Sys2Proof.Machine.execJmpRel32 p d s
  | .jmpRm32 p rm => Sys2Proof.Machine.execJmpRm32 p rm s
  | .joRel8 p d => Sys2Proof.Machine.execJoRel8 p d s
  | .joRel32 p d => Sys2Proof.Machine.execJoRel32 p d s
  | .jnoRel8 p d => Sys2Proof.Machine.execJnoRel8 p d s
  | .jnoRel32 p d => Sys2Proof.Machine.execJnoRel32 p d s
  | .jbRel8 p d => Sys2Proof.Machine.execJbRel8 p d s
  | .jbRel32 p d => Sys2Proof.Machine.execJbRel32 p d s
  | .jaeRel8 p d => Sys2Proof.Machine.execJaeRel8 p d s
  | .jaeRel32 p d => Sys2Proof.Machine.execJaeRel32 p d s
  | .jeRel8 p d => Sys2Proof.Machine.execJeRel8 p d s
  | .jeRel32 p d => Sys2Proof.Machine.execJeRel32 p d s
  | .jneRel8 p d => Sys2Proof.Machine.execJneRel8 p d s
  | .jneRel32 p d => Sys2Proof.Machine.execJneRel32 p d s
  | .jbeRel8 p d => Sys2Proof.Machine.execJbeRel8 p d s
  | .jbeRel32 p d => Sys2Proof.Machine.execJbeRel32 p d s
  | .jaRel8 p d => Sys2Proof.Machine.execJaRel8 p d s
  | .jaRel32 p d => Sys2Proof.Machine.execJaRel32 p d s
  | .jsRel8 p d => Sys2Proof.Machine.execJsRel8 p d s
  | .jsRel32 p d => Sys2Proof.Machine.execJsRel32 p d s
  | .jnsRel8 p d => Sys2Proof.Machine.execJnsRel8 p d s
  | .jnsRel32 p d => Sys2Proof.Machine.execJnsRel32 p d s
  | .jpRel8 p d => Sys2Proof.Machine.execJpRel8 p d s
  | .jpRel32 p d => Sys2Proof.Machine.execJpRel32 p d s
  | .jnpRel8 p d => Sys2Proof.Machine.execJnpRel8 p d s
  | .jnpRel32 p d => Sys2Proof.Machine.execJnpRel32 p d s
  | .jlRel8 p d => Sys2Proof.Machine.execJlRel8 p d s
  | .jlRel32 p d => Sys2Proof.Machine.execJlRel32 p d s
  | .jgeRel8 p d => Sys2Proof.Machine.execJgeRel8 p d s
  | .jgeRel32 p d => Sys2Proof.Machine.execJgeRel32 p d s
  | .jleRel8 p d => Sys2Proof.Machine.execJleRel8 p d s
  | .jleRel32 p d => Sys2Proof.Machine.execJleRel32 p d s
  | .jgRel8 p d => Sys2Proof.Machine.execJgRel8 p d s
  | .jgRel32 p d => Sys2Proof.Machine.execJgRel32 p d s
  | .cmovoRRm p r rm => Sys2Proof.Machine.execCmovoRRm p r rm s
  | .cmovnoRRm p r rm => Sys2Proof.Machine.execCmovnoRRm p r rm s
  | .cmovbRRm p r rm => Sys2Proof.Machine.execCmovbRRm p r rm s
  | .cmovaeRRm p r rm => Sys2Proof.Machine.execCmovaeRRm p r rm s
  | .cmoveRRm p r rm => Sys2Proof.Machine.execCmoveRRm p r rm s
  | .cmovneRRm p r rm => Sys2Proof.Machine.execCmovneRRm p r rm s
  | .cmovbeRRm p r rm => Sys2Proof.Machine.execCmovbeRRm p r rm s
  | .cmovaRRm p r rm => Sys2Proof.Machine.execCmovaRRm p r rm s
  | .cmovsRRm p r rm => Sys2Proof.Machine.execCmovsRRm p r rm s
  | .cmovnsRRm p r rm => Sys2Proof.Machine.execCmovnsRRm p r rm s
  | .cmovpRRm p r rm => Sys2Proof.Machine.execCmovpRRm p r rm s
  | .cmovnpRRm p r rm => Sys2Proof.Machine.execCmovnpRRm p r rm s
  | .cmovlRRm p r rm => Sys2Proof.Machine.execCmovlRRm p r rm s
  | .cmovgeRRm p r rm => Sys2Proof.Machine.execCmovgeRRm p r rm s
  | .cmovleRRm p r rm => Sys2Proof.Machine.execCmovleRRm p r rm s
  | .cmovgRRm p r rm => Sys2Proof.Machine.execCmovgRRm p r rm s
  | .bsfRRm p r rm => Sys2Proof.Machine.execBsfRRm p r rm s
  | .bsrRRm p r rm => Sys2Proof.Machine.execBsrRRm p r rm s
  | .bswapR32 p r => Sys2Proof.Machine.execBswapR32 p r s
  | .btRmR p rm r => Sys2Proof.Machine.execBtRmR p rm r s
  | .btRmImm8 p rm v => Sys2Proof.Machine.execBtRmImm8 p rm v s
  | .btsRmR p rm r => Sys2Proof.Machine.execBtsRmR p rm r s
  | .btsRmImm8 p rm v => Sys2Proof.Machine.execBtsRmImm8 p rm v s
  | .btrRmR p rm r => Sys2Proof.Machine.execBtrRmR p rm r s
  | .btrRmImm8 p rm v => Sys2Proof.Machine.execBtrRmImm8 p rm v s
  | .btcRmR p rm r => Sys2Proof.Machine.execBtcRmR p rm r s
  | .btcRmImm8 p rm v => Sys2Proof.Machine.execBtcRmImm8 p rm v s

end Sys2Proof.Machine
end

