-- ==== Sys2Proof/Machine/Fetch.lean ====
section
/-! DEFINITION. Instruction fetch and the verdicts of fetch and decode (20_memory.md R70; 30_encoding.md R117; 60_exceptions.md R441,
R445). -/

namespace Sys2Proof.Machine

/-- The bytes at `a`, `a + 1`, ... that a fetch may read: at most `n`, up to the first that is not admitted for execute. Addresses are
integers and not wrapped (R70). -/
def fetchRun (x : AddressSpace) : Nat → Nat → List Byte
  | 0, _ => []
  | n + 1, a => if x.admits .execute a then Memory.read x.bytes a :: fetchRun x n (a + 1) else []

/-- The fault of a decode verdict, with EIP and the bytes up to the one that settled it (60_exceptions.md R440). -/
def verdictFault (v : Reject) (eip : Word) (bytes : List Byte) : Fault :=
  match v with
  | .invalidOpcode => .invalidOpcode eip bytes
  | .unsupportedInstruction => .unsupportedInstruction eip bytes

/-- Fetch and decode at EIP. The decoder asks for bytes in ascending order; a verdict settled by the bytes before a byte that
cannot be fetched wins, and a byte past MAX_INSN_LEN is never asked for: the instruction is then invalid (30_encoding.md R107, R117;
60_exceptions.md R445; log entry 9). -/
def fetchDecode (cfg : Config) (s : State) : Except Fault Instr :=
  let bytes := fetchRun s.mem cfg.maxInsnLen s.eip.toNat
  match decodeWith cfg.admitTierG bytes with
  | .got i _ => .ok i
  | .refuse v rest => .error (verdictFault v s.eip (bytes.take (bytes.length - rest.length)))
  | .more =>
    if bytes.length < cfg.maxInsnLen then .error (s.mem.faultAt (s.eip.toNat + bytes.length))
    else .error (.invalidOpcode s.eip bytes)

end Sys2Proof.Machine
end

