-- ==== Sys2Proof/Machine/HostInterface.lean ====
section
/-! DEFINITION. What the host may do between two `execute()` calls (70_reset_and_hazards.md R470 to R476): `mmap`, `read`, `write`, the
accessors, the launch, and the placing of an instruction where the next fetch reads it. -/

namespace Sys2Proof.Machine

/-- `MapError`, the result of a refused `mmap`; it is no fault of `execute()` (60_exceptions.md R444). -/
inductive MapError
  | mapError
deriving DecidableEq, Repr

/-- Put a mapping among mappings in start order. -/
def insertMapping (m : Mapping) : List Mapping → List Mapping
  | [] => [m]
  | n :: ns => if m.start < n.start then m :: n :: ns else n :: insertMapping m ns

/-- Whether two regions share a byte. -/
def Mapping.overlaps (m n : Mapping) : Bool := decide (m.start < n.start + n.size) && decide (n.start < m.start + m.size)

/-- `mmap(addr, size, perm)` (20_memory.md R62). The bytes of the new region hold what `bytes` lists for them, which the launch sets
(R78). -/
def mmap (cfg : Config) (x : AddressSpace) (addr size : Nat) (perm : Perm) : Except MapError AddressSpace :=
  let m : Mapping := { start := addr, size := size, perm := perm }
  if size = 0 ∨ addr % cfg.pageSize ≠ 0 ∨ size % cfg.pageSize ≠ 0 ∨ 2 ^ 32 < addr + size ∨ x.maps.any (fun n => m.overlaps n) then
    .error .mapError
  else .ok { x with maps := insertMapping m x.maps }

/-- The bytes at `a`, ..., `a + n - 1`. -/
def bytesAt (m : Memory) (a : Nat) : Nat → List Byte
  | 0 => []
  | n + 1 => Memory.read m a :: bytesAt m (a + 1) n

/-- Store a list of bytes from `a` on. -/
def storeBytes (m : Memory) (a : Nat) : List Byte → Memory
  | [] => m
  | b :: bs => storeBytes (Memory.write m a b) (a + 1) bs

/-- The host's `read(addr, len)` (20_memory.md R64, R69). -/
def hostRead (x : AddressSpace) (addr len : Nat) : Except Fault (List Byte) :=
  match x.check .read addr len with
  | some f => .error f
  | none => .ok (bytesAt x.bytes addr len)

/-- The host's `write(addr, bytes)`: all bytes or none (20_memory.md R65, R69; 90_conflicts.md C5). -/
def hostWrite (x : AddressSpace) (addr : Nat) (bytes : List Byte) : Except Fault AddressSpace :=
  match x.check .write addr bytes.length with
  | some f => .error f
  | none => .ok { x with bytes := storeBytes x.bytes addr bytes }

/-- `get_<view>` for every view of 10_state.md R31 (R36). -/
def getView {w : Width} (s : State) (v : View w) : BitVec w.bits := s.regs.readView v

/-- `set_<view>`; a narrow view obeys 10_state.md R33 (R36). -/
def setView {w : Width} (s : State) (v : View w) (x : BitVec w.bits) : State := { s with regs := s.regs.writeView v x }

/-- `get_EIP` (10_state.md R36). -/
def getEip (s : State) : Word := s.eip

/-- `set_EIP` (10_state.md R36). -/
def setEip (s : State) (v : Word) : State := { s with eip := v }

/-- `get_<flag>` (10_state.md R36). -/
def getFlagOf (s : State) (f : Flag) : Bool := getFlag s.flags f

/-- `set_<flag>` (10_state.md R36). -/
def setFlagOf (s : State) (f : Flag) (b : Bool) : State := { s with flags := setFlag s.flags f b }

/-- The launch: every field is the host's, and a launch state whose mappings break the invariants is refused, not repaired
(70_reset_and_hazards.md R470 to R472; log entry 11). -/
def launch (cfg : Config) (s : State) : Except Refusal State :=
  if s.mem.wf cfg.pageSize then .ok s else .error .brokenLaunch

/-! ## Placing an instruction -/

/-- Let the mappings that hold a byte be fetched from. -/
def allowExecute (ms : List Mapping) (a : Nat) : List Mapping :=
  ms.map fun m => if m.contains a then { m with perm := { m.perm with execute := true } } else m

/-- Let a byte be fetched: through the mapping that holds it, or through a new page of ordinary memory (log entry 3). -/
def makeFetchable (cfg : Config) (x : AddressSpace) (a : Nat) : AddressSpace :=
  if 2 ^ 32 ≤ a then x
  else if x.mapped a then { x with maps := allowExecute x.maps a }
  else
    let page : Mapping :=
      { start := a / cfg.pageSize * cfg.pageSize, size := cfg.pageSize, perm := { read := true, write := true, execute := true } }
    { x with maps := insertMapping page x.maps }

/-- Place bytes from `a` on where fetch reads them; nothing is placed at 2^32 or above. -/
def placeCode (cfg : Config) (x : AddressSpace) (a : Nat) : List Byte → AddressSpace
  | [] => x
  | b :: bs =>
    let y := makeFetchable cfg x a
    placeCode cfg { y with bytes := if 2 ^ 32 ≤ a then y.bytes else Memory.write y.bytes a b } (a + 1) bs

end Sys2Proof.Machine
end

