-- ==== Sys2Proof/Machine/Step.lean ====
section
/-! DEFINITION. The step: `Cpu.execute()` (40_execution.md R160), runs of it (70_reset_and_hazards.md R474), and the state in which the
next step runs a given table word. -/

namespace Sys2Proof.Machine

/-- `execute()` with the parameters of 00_scope.md R11 to R14 as an argument: fetch, decode, execute. -/
def stepWith (cfg : Config) (s : State) : Host.Outcome State Fault Refusal :=
  match fetchDecode cfg s with
  | .error f => raise f
  | .ok i => exec i s

/-- `execute()` at the default parameters. -/
def step (s : State) : Host.Outcome State Fault Refusal := stepWith Config.std s

/-- A run of N steps: it "ends in the state after the last successful call together with that fault, if any"
(70_reset_and_hazards.md R474). A model's refusal would end it the same way; no step refuses. -/
def runSteps (cfg : Config) : Nat → State → State × Option Fault
  | 0, s => (s, none)
  | n + 1, s =>
    match stepWith cfg s with
    | .next t => runSteps cfg n t
    | .fault f => (s, some f)
    | .refused _ => (s, none)

/-- The state with an instruction stored where the next step fetches it, numbered as spec/opcode_table.json numbers it; the bytes
above `nbits` are 0 up to the longest instruction (log entry 3). -/
def State.withFetchWord (s : State) (nbits w : Nat) : State :=
  { s with mem := placeCode Config.std s.mem s.eip.toNat (tableBytes nbits w) }

end Sys2Proof.Machine
end

