-- ==== Sys2Proof/Safety.lean ====
section
/-! DEFINITION. The terms statements are written in: what a place admits, what an instruction may write (10_state.md R35, R41;
20_memory.md R72), how two states agree, the invariant of an address space, and what a safe run is. -/

namespace Sys2Proof.Machine

/-! ## Admission -/

/-- Each of the `n` bytes from `a` on, not wrapped, is admitted (20_memory.md R63). -/
abbrev AddressSpace.Admitted (x : AddressSpace) (k : Access) (a n : Nat) : Prop := ∀ j, j < n → x.admits k (a + j) = true

/-- A store to the place is admitted: every byte of a memory place is writable. A register place always is. -/
def canWrite {w : Width} (s : State) : Place w → Bool
  | .reg _ => true
  | .mem e => decide (s.mem.Admitted .write (e.address s.regs).toNat w.bytes)

/-! ## How two states agree -/

/-- The mappings and the byte at every address are the same. -/
def SameMemory (s t : State) : Prop :=
  t.mem.maps = s.mem.maps ∧ ∀ b, Memory.read t.mem.bytes b = Memory.read s.mem.bytes b

/-- Every cell outside the list is the same. -/
def SameCellsBut (s t : State) (rs : List Reg) : Prop := ∀ r, r ∉ rs → t.regs.get r = s.regs.get r

/-- The bits of its cell that a view covers (10_state.md R31). -/
def View.covers {w : Width} : View w → Nat → Bool
  | .b r, k => if isHigh8 r then decide (8 ≤ k) && decide (k < 16) else decide (k < 8)
  | .w _, k => decide (k < 16)
  | .d _, _ => true

/-- The view holds `v`; every bit of its cell outside the view and every other cell are the same. -/
structure RegWritten {w : Width} (s t : State) (x : View w) (v : BitVec w.bits) : Prop where
  value : t.regs.readView x = v
  outside : ∀ k, x.covers k = false → (t.regs.get x.cell).getLsbD k = (s.regs.get x.cell).getLsbD k
  others : SameCellsBut s t [x.cell]

/-- The `n` bytes at `a` hold `v`, low byte first; every other byte and the mappings are the same. -/
structure MemWritten (s t : State) (a n v : Nat) : Prop where
  bytes : ∀ k, k < n → Memory.read t.mem.bytes (a + k) = BitVec.ofNat 8 (v / 256 ^ k)
  outside : ∀ b, (b < a ∨ a + n ≤ b) → Memory.read t.mem.bytes b = Memory.read s.mem.bytes b
  maps : t.mem.maps = s.mem.maps

/-- The place holds `v` and nothing else differs in registers, memory and mappings: for a register place no byte of memory does, for
a memory place, at the address its expression gives before the instruction, no register does. -/
def Written {w : Width} (s t : State) (p : Place w) (v : BitVec w.bits) : Prop :=
  match p with
  | .reg x => RegWritten s t x v ∧ SameMemory s t
  | .mem e => MemWritten s t (e.address s.regs).toNat w.bytes v.toNat ∧ t.regs = s.regs

/-- EIP is at the next instruction: `next_ip` modulo 2^32 (40_execution.md R162). -/
def Advanced (i : Instr) (s t : State) : Prop := t.eip = s.eip + BitVec.ofNat 32 i.length

/-- Two states that agree on all that is architectural: a byte is meaningful only where a mapping contains its address
(20_memory.md R60). -/
structure SameArch (s t : State) : Prop where
  regs : s.regs = t.regs
  eip : s.eip = t.eip
  flags : s.flags = t.flags
  maps : s.mem.maps = t.mem.maps
  bytes : ∀ a, s.mem.mapped a = true → Memory.read s.mem.bytes a = Memory.read t.mem.bytes a

/-- Outcomes that agree: the same fault, or next states that agree. -/
def SameOutcome : StepResult → StepResult → Prop
  | .next s, .next t => SameArch s t
  | .fault f, .fault g => f = g
  | .refused r, .refused q => r = q
  | _, _ => False

/-! ## Implicit registers -/

/-- The remainder's view (43_multiply_divide.md R254): AH, DX or EDX. -/
def remainderView : (w : Width) → View w
  | .w8 => .b .ah
  | .w16 => .w .edx
  | .w32 => .d .edx

/-- The bits of EAX and EDX that a 2w-bit product or a quotient and remainder do not cover, and every other cell, are the same. -/
def WideKept (w : Width) (s t : State) : Prop :=
  SameCellsBut s t [.eax, .edx] ∧
    match w with
    | .w8 => t.regs.eax.extractLsb' 16 16 = s.regs.eax.extractLsb' 16 16 ∧ t.regs.edx = s.regs.edx
    | .w16 => t.regs.eax.extractLsb' 16 16 = s.regs.eax.extractLsb' 16 16
        ∧ t.regs.edx.extractLsb' 16 16 = s.regs.edx.extractLsb' 16 16
    | .w32 => True

/-! ## Conditions by mnemonic -/

/-- The condition of a CMOVcc (46_conditional_move.md R322 to R337). -/
def cmovCond : Mnemonic → Option Cond
  | .CMOVO => some .O
  | .CMOVNO => some .NO
  | .CMOVB => some .B
  | .CMOVAE => some .AE
  | .CMOVE => some .E
  | .CMOVNE => some .NE
  | .CMOVBE => some .BE
  | .CMOVA => some .A
  | .CMOVS => some .S
  | .CMOVNS => some .NS
  | .CMOVP => some .P
  | .CMOVNP => some .NP
  | .CMOVL => some .L
  | .CMOVGE => some .GE
  | .CMOVLE => some .LE
  | .CMOVG => some .G
  | _ => none

/-- The condition of a Jcc (47_control_transfer.md R359 to R374). -/
def jccCond : Mnemonic → Option Cond
  | .JO => some .O
  | .JNO => some .NO
  | .JB => some .B
  | .JAE => some .AE
  | .JE => some .E
  | .JNE => some .NE
  | .JBE => some .BE
  | .JA => some .A
  | .JS => some .S
  | .JNS => some .NS
  | .JP => some .P
  | .JNP => some .NP
  | .JL => some .L
  | .JGE => some .GE
  | .JLE => some .LE
  | .JG => some .G
  | _ => none

/-- The width of a string compare (48_string_and_flags.md R391 to R393). -/
def cmpsWidth : Mnemonic → Option Width
  | .CMPSB => some .w8
  | .CMPSW => some .w16
  | .CMPSD => some .w32
  | _ => none

/-- The mnemonics that set EIP themselves (47_control_transfer.md). -/
def isTransfer (m : Mnemonic) : Bool := m == .CALL || m == .RET || m == .JMP || (jccCond m).isSome

/-! ## Footprints -/

/-- The flags an instruction may write (10_state.md R41). -/
def flagsWritten : Mnemonic → List Flag
  | .ADD => [.CF, .PF, .AF, .ZF, .SF, .OF]
  | .ADC => [.CF, .PF, .AF, .ZF, .SF, .OF]
  | .SUB => [.CF, .PF, .AF, .ZF, .SF, .OF]
  | .SBB => [.CF, .PF, .AF, .ZF, .SF, .OF]
  | .CMP => [.CF, .PF, .AF, .ZF, .SF, .OF]
  | .NEG => [.CF, .PF, .AF, .ZF, .SF, .OF]
  | .CMPSB => [.CF, .PF, .AF, .ZF, .SF, .OF]
  | .CMPSW => [.CF, .PF, .AF, .ZF, .SF, .OF]
  | .CMPSD => [.CF, .PF, .AF, .ZF, .SF, .OF]
  | .MUL => [.CF, .PF, .AF, .ZF, .SF, .OF]
  | .IMUL => [.CF, .PF, .AF, .ZF, .SF, .OF]
  | .DIV => [.CF, .PF, .AF, .ZF, .SF, .OF]
  | .IDIV => [.CF, .PF, .AF, .ZF, .SF, .OF]
  | .AAD => [.CF, .PF, .AF, .ZF, .SF, .OF]
  | .AAM => [.CF, .PF, .AF, .ZF, .SF, .OF]
  | .SHL => [.CF, .PF, .AF, .ZF, .SF, .OF]
  | .SHR => [.CF, .PF, .AF, .ZF, .SF, .OF]
  | .SAR => [.CF, .PF, .AF, .ZF, .SF, .OF]
  | .INC => [.PF, .AF, .ZF, .SF, .OF]
  | .DEC => [.PF, .AF, .ZF, .SF, .OF]
  | .AND => [.CF, .PF, .ZF, .SF, .OF]
  | .OR => [.CF, .PF, .ZF, .SF, .OF]
  | .XOR => [.CF, .PF, .ZF, .SF, .OF]
  | .TEST => [.CF, .PF, .ZF, .SF, .OF]
  | .ROL => [.CF, .OF]
  | .ROR => [.CF, .OF]
  | .RCL => [.CF, .OF]
  | .RCR => [.CF, .OF]
  | .BT => [.CF]
  | .BTS => [.CF]
  | .BTR => [.CF]
  | .BTC => [.CF]
  | .CLC => [.CF]
  | .STC => [.CF]
  | .CMC => [.CF]
  | .BSF => [.ZF]
  | .BSR => [.ZF]
  | .CLD => [.DF]
  | .STD => [.DF]
  | _ => []

/-- The cell of a register place. -/
def placeCells {w : Width} : Place w → List Reg
  | .reg x => [x.cell]
  | .mem _ => []

/-- The mnemonics whose first operand is only read (41_arithmetic.md R203; 42_logical.md R233; 45_bit_ops.md R304). -/
def onlyReads (m : Mnemonic) : Bool := m == .CMP || m == .TEST || m == .BT

/-- The mnemonics whose one operand is a source (43_multiply_divide.md R250, R251, R254, R255; 47_control_transfer.md R352, R357). -/
def oneIsSource (m : Mnemonic) : Bool :=
  m == .MUL || m == .IMUL || m == .DIV || m == .IDIV || m == .CALL || m == .JMP

/-- The cells an instruction writes without an operand that names them (10_state.md R35). -/
def implicitCells (m : Mnemonic) (w : Option Width) (o : Operands) : List Reg :=
  match m, o with
  | .MUL, _ => if w = some .w8 then [.eax] else [.eax, .edx]
  | .IMUL, .one _ => if w = some .w8 then [.eax] else [.eax, .edx]
  | .DIV, _ => if w = some .w8 then [.eax] else [.eax, .edx]
  | .IDIV, _ => if w = some .w8 then [.eax] else [.eax, .edx]
  | .CALL, _ => [.esp]
  | .RET, _ => [.esp]
  | .CMPSB, _ => [.esi, .edi]
  | .CMPSW, _ => [.esi, .edi]
  | .CMPSD, _ => [.esi, .edi]
  | .AAD, _ => [.eax]
  | .AAM, _ => [.eax]
  | .CBW, _ => [.eax]
  | .CWDE, _ => [.eax]
  | .CWD, _ => [.edx]
  | .CDQ, _ => [.edx]
  | _, _ => []

/-- The cells an operand names as a destination. -/
def operandCells (m : Mnemonic) : Operands → List Reg
  | .one d => if oneIsSource m then [] else placeCells d
  | .two d _ => if onlyReads m then [] else placeCells d
  | .byteSrc d _ => if onlyReads m then [] else placeCells d
  | .widen d _ => placeCells d
  | .three d _ _ => placeCells d
  | .none => []
  | .imm _ => []
  | .target _ => []

/-- The cells an instruction may write. -/
def cellsWritten (i : Instr) : List Reg :=
  implicitCells i.mnemonic i.width (operandsOf i) ++ operandCells i.mnemonic (operandsOf i)

/-- The bytes a store to a place covers: address and number. -/
def placeBytes {w : Width} (s : State) : Place w → Option (Nat × Nat)
  | .reg _ => none
  | .mem e => some ((e.address s.regs).toNat, w.bytes)

/-- The bytes an instruction stores to: those of its memory destination, or the stack slot a CALL pushes to (20_memory.md R72). -/
def storesTo (i : Instr) (s : State) : Option (Nat × Nat) :=
  if i.mnemonic = .CALL then some ((s.regs.get .esp - 4#32).toNat, 4)
  else
    match operandsOf i with
    | .one d => if oneIsSource i.mnemonic then none else placeBytes s d
    | .two d _ => if onlyReads i.mnemonic then none else placeBytes s d
    | .byteSrc d _ => if onlyReads i.mnemonic then none else placeBytes s d
    | .widen d _ => placeBytes s d
    | .three d _ _ => placeBytes s d
    | .none => none
    | .imm _ => none
    | .target _ => none

/-- LOCK may stand on the instruction: one of the mnemonics 30_encoding.md R105 lists, with a destination in memory. -/
def Lockable (i : Instr) : Prop :=
  i.mnemonic ∈ [Mnemonic.ADD, .OR, .ADC, .SBB, .AND, .SUB, .XOR, .INC, .DEC, .NOT, .NEG, .BTS, .BTR, .BTC] ∧
    ∀ s : State, (storesTo i s).isSome = true

/-- The r/m memory operand an instruction reads, with its width (40_execution.md R163, R166, R169): not LEA's, which is only
computed, and not the destination of a MOV, which is only written. -/
def readsFrom (i : Instr) : Option (Width × EaExpr) :=
  match operandsOf i with
  | .one (w := w) (.mem e) => some (w, e)
  | .two (w := w) (.mem e) _ => if i.mnemonic = .MOV then none else some (w, e)
  | .two (w := w) _ (.place (.mem e)) => if i.mnemonic = .LEA then none else some (w, e)
  | .byteSrc (w := w) (.mem e) _ => some (w, e)
  | .widen (v := v) _ (.mem e) => some (v, e)
  | .three (w := w) _ (.mem e) _ => some (w, e)
  | _ => none

/-- Every byte of the r/m memory operand that is read may be read. -/
def readsOk (i : Instr) (s : State) : Bool :=
  match readsFrom i with
  | some (w, e) => decide (s.mem.Admitted .read (e.address s.regs).toNat w.bytes)
  | none => true

/-! ## Invariant and safe runs -/

/-- The invariant of every step: mappings page-aligned, inside [0, 2^32), in start order and disjoint; memory in canonical form with no
address at 2^32 or above (20_memory.md R60 to R62; 70_reset_and_hazards.md R472; log entry 2). -/
def State.Inv (s : State) : Prop := s.mem.wf Config.std.pageSize = true

/-- A safe run of `n` steps: every call succeeds (70_reset_and_hazards.md R474). -/
def SafeRun (n : Nat) (s : State) : Prop := (runSteps Config.std n s).2 = none

end Sys2Proof.Machine
end

