-- ==== Sys2Proof/Certificates/Slice0/Obligations.lean ====
section
/-! DEFINITION. The statements for the provers. A statement about an instruction has as its conclusion that `exec` answers a next
state, for every state and operands that meet hypotheses on the state and the operands alone, and says that state's registers,
flags, memory and EIP whole (flags that the spec leaves undefined apart). `step` and `decode` are at the spec's default parameters (log
entry 4). -/

open Sys2Proof Sys2Proof.Machine

/-! ## Integer add and subtract -/

/-- 41_arithmetic.md R201 (ADD) and R206 (ADC), with 40_execution.md R171: result modulo 2^w, the six flags, and the frame. -/
def Obligations.AddAndAdcWriteSumAndFlags : Prop :=
  ∀ (i : Instr) (s : State) (w : Width) (dst : Place w) (src : Operand w) (a b : BitVec w.bits) (c : Nat),
    (i.mnemonic = .ADD ∧ c = 0 ∨ i.mnemonic = .ADC ∧ c = s.flags.CF.toNat) → operandsOf i = .two dst src →
    readPlace s dst = .ok a → readOperand s src = .ok b → canWrite s dst = true →
    let r := BitVec.ofNat w.bits (a.toNat + b.toNat + c)
    ∃ t, exec i s = .next t ∧ Written s t dst r ∧ Advanced i s t ∧
      t.flags =
        { CF := decide (2 ^ w.bits ≤ a.toNat + b.toNat + c)
          OF := a.msb == b.msb && r.msb != a.msb
          AF := (a ^^^ b ^^^ r).getLsbD 4
          SF := r.msb, ZF := r == 0#w.bits, PF := parityFlag r, DF := s.flags.DF }

/-- 41_arithmetic.md R202 (SUB) and R207 (SBB), with 40_execution.md R172. -/
def Obligations.SubAndSbbWriteDifferenceAndFlags : Prop :=
  ∀ (i : Instr) (s : State) (w : Width) (dst : Place w) (src : Operand w) (a b : BitVec w.bits) (c : Nat),
    (i.mnemonic = .SUB ∧ c = 0 ∨ i.mnemonic = .SBB ∧ c = s.flags.CF.toNat) → operandsOf i = .two dst src →
    readPlace s dst = .ok a → readOperand s src = .ok b → canWrite s dst = true →
    let r := BitVec.ofInt w.bits ((a.toNat : Int) - b.toNat - c)
    ∃ t, exec i s = .next t ∧ Written s t dst r ∧ Advanced i s t ∧
      t.flags =
        { CF := decide (a.toNat < b.toNat + c)
          OF := a.msb != b.msb && r.msb != a.msb
          AF := (a ^^^ b ^^^ r).getLsbD 4
          SF := r.msb, ZF := r == 0#w.bits, PF := parityFlag r, DF := s.flags.DF }

/-- 41_arithmetic.md R203 (CMP): the flags of `a - b`; no register and no byte of memory is written, and a memory first operand needs
no write permission. -/
def Obligations.CmpWritesFlagsOnly : Prop :=
  ∀ (i : Instr) (s : State) (w : Width) (dst : Place w) (src : Operand w) (a b : BitVec w.bits),
    i.mnemonic = .CMP → operandsOf i = .two dst src → readPlace s dst = .ok a → readOperand s src = .ok b →
    ∃ t, exec i s = .next t ∧ t.regs = s.regs ∧ SameMemory s t ∧ Advanced i s t ∧
      t.flags =
        { CF := decide (a.toNat < b.toNat)
          OF := a.msb != b.msb && (a - b).msb != a.msb
          AF := (a ^^^ b ^^^ (a - b)).getLsbD 4
          SF := (a - b).msb, ZF := a == b, PF := parityFlag (a - b), DF := s.flags.DF }

/-- 41_arithmetic.md R204 (INC) and R205 (DEC): CF is not written. -/
def Obligations.IncAndDecKeepCarry : Prop :=
  ∀ (i : Instr) (s : State) (w : Width) (dst : Place w) (a : BitVec w.bits),
    operandsOf i = .one dst → readPlace s dst = .ok a → canWrite s dst = true →
    (i.mnemonic = .INC →
      ∃ t, exec i s = .next t ∧ Written s t dst (a + 1#w.bits) ∧ Advanced i s t ∧
        t.flags =
          { CF := s.flags.CF
            OF := decide (a.toNat = 2 ^ (w.bits - 1) - 1)
            AF := decide (a.toNat % 16 = 15)
            SF := (a + 1#w.bits).msb, ZF := a + 1#w.bits == 0#w.bits, PF := parityFlag (a + 1#w.bits), DF := s.flags.DF }) ∧
    (i.mnemonic = .DEC →
      ∃ t, exec i s = .next t ∧ Written s t dst (a - 1#w.bits) ∧ Advanced i s t ∧
        t.flags =
          { CF := s.flags.CF
            OF := decide (a.toNat = 2 ^ (w.bits - 1))
            AF := decide (a.toNat % 16 = 0)
            SF := (a - 1#w.bits).msb, ZF := a - 1#w.bits == 0#w.bits, PF := parityFlag (a - 1#w.bits), DF := s.flags.DF })

/-- 41_arithmetic.md R208 (NEG): "`CF = (a ≠ 0)`, `OF = (a = 2^(w-1))`, `AF = (a[3:0] ≠ 0)`". -/
def Obligations.NegWritesNegationAndFlags : Prop :=
  ∀ (i : Instr) (s : State) (w : Width) (dst : Place w) (a : BitVec w.bits),
    i.mnemonic = .NEG → operandsOf i = .one dst → readPlace s dst = .ok a → canWrite s dst = true →
    ∃ t, exec i s = .next t ∧ Written s t dst (-a) ∧ Advanced i s t ∧
      t.flags =
        { CF := decide (a.toNat ≠ 0)
          OF := decide (a.toNat = 2 ^ (w.bits - 1))
          AF := decide (a.toNat % 16 ≠ 0)
          SF := (-a).msb, ZF := -a == 0#w.bits, PF := parityFlag (-a), DF := s.flags.DF }

/-! ## Logic -/

/-- 42_logical.md R230 (AND), R231 (OR), R232 (XOR), with 40_execution.md R173: CF and OF cleared, AF unchanged. -/
def Obligations.AndOrXorWriteResultAndFlags : Prop :=
  ∀ (i : Instr) (s : State) (w : Width) (dst : Place w) (src : Operand w) (a b r : BitVec w.bits),
    (i.mnemonic = .AND ∧ r = a &&& b ∨ i.mnemonic = .OR ∧ r = a ||| b ∨ i.mnemonic = .XOR ∧ r = a ^^^ b) →
    operandsOf i = .two dst src → readPlace s dst = .ok a → readOperand s src = .ok b → canWrite s dst = true →
    ∃ t, exec i s = .next t ∧ Written s t dst r ∧ Advanced i s t ∧
      t.flags =
        { CF := false, OF := false, AF := s.flags.AF, SF := r.msb, ZF := r == 0#w.bits, PF := parityFlag r
          DF := s.flags.DF }

/-- 42_logical.md R233 (TEST): only flags are written. -/
def Obligations.TestWritesFlagsOnly : Prop :=
  ∀ (i : Instr) (s : State) (w : Width) (dst : Place w) (src : Operand w) (a b : BitVec w.bits),
    i.mnemonic = .TEST → operandsOf i = .two dst src → readPlace s dst = .ok a → readOperand s src = .ok b →
    ∃ t, exec i s = .next t ∧ t.regs = s.regs ∧ SameMemory s t ∧ Advanced i s t ∧
      t.flags =
        { CF := false, OF := false, AF := s.flags.AF, SF := (a &&& b).msb, ZF := (a &&& b) == 0#w.bits
          PF := parityFlag (a &&& b), DF := s.flags.DF }

/-- 42_logical.md R234 (NOT): every bit is complemented, no flag is written. -/
def Obligations.NotComplementsAndKeepsFlags : Prop :=
  ∀ (i : Instr) (s : State) (w : Width) (dst : Place w) (a : BitVec w.bits),
    i.mnemonic = .NOT → operandsOf i = .one dst → readPlace s dst = .ok a → canWrite s dst = true →
    ∃ t, exec i s = .next t ∧ Written s t dst (~~~a) ∧ Advanced i s t ∧ t.flags = s.flags

/-! ## Multiply and divide -/

/-- 43_multiply_divide.md R250 (MUL): the exact 2w-bit product; CF and OF tell whether its high half is 0. SF, ZF, AF and PF are
undefined and not constrained; DF is unchanged. -/
def Obligations.MulWritesFullProduct : Prop :=
  ∀ (i : Instr) (s : State) (w : Width) (src : Place w) (b : BitVec w.bits),
    i.mnemonic = .MUL → operandsOf i = .one src → readPlace s src = .ok b →
    let p := (s.regs.readView (accum w)).toNat * b.toNat
    ∃ t, exec i s = .next t ∧ dividend w t.regs = p ∧ WideKept w s t ∧ SameMemory s t ∧ Advanced i s t ∧
      t.flags.CF = decide (2 ^ w.bits ≤ p) ∧ t.flags.OF = decide (2 ^ w.bits ≤ p) ∧ t.flags.DF = s.flags.DF

/-- 43_multiply_divide.md R251 (IMUL, one operand): the exact signed 2w-bit product; CF and OF tell that it does not fit in w signed
bits. -/
def Obligations.ImulOneWritesFullSignedProduct : Prop :=
  ∀ (i : Instr) (s : State) (w : Width) (src : Place w) (b : BitVec w.bits),
    i.mnemonic = .IMUL → operandsOf i = .one src → readPlace s src = .ok b →
    let p := (s.regs.readView (accum w)).toInt * b.toInt
    let wide := decide (p < -2 ^ (w.bits - 1) ∨ 2 ^ (w.bits - 1) ≤ p)
    ∃ t, exec i s = .next t ∧ (BitVec.ofNat (2 * w.bits) (dividend w t.regs)).toInt = p ∧ WideKept w s t ∧ SameMemory s t ∧
      Advanced i s t ∧ t.flags.CF = wide ∧ t.flags.OF = wide ∧ t.flags.DF = s.flags.DF

/-- 43_multiply_divide.md R252 and R253 (IMUL, two and three operands): the signed product modulo 2^w; CF and OF tell that it does not
fit. With three operands the old destination is not read. -/
def Obligations.ImulTwoAndThreeTruncateProduct : Prop :=
  ∀ (i : Instr) (s : State) (w : Width) (dst : Place w) (a b : BitVec w.bits),
    i.mnemonic = .IMUL →
    ((∃ src : Operand w, operandsOf i = .two dst src ∧ readPlace s dst = .ok a ∧ readOperand s src = .ok b) ∨
      ∃ (src : Place w) (v : Operand w), operandsOf i = .three dst src v ∧ readPlace s src = .ok a ∧ readOperand s v = .ok b) →
    let p := a.toInt * b.toInt
    let wide := decide (p < -2 ^ (w.bits - 1) ∨ 2 ^ (w.bits - 1) ≤ p)
    ∃ t, exec i s = .next t ∧ Written s t dst (BitVec.ofInt w.bits p) ∧ Advanced i s t ∧
      t.flags.CF = wide ∧ t.flags.OF = wide ∧ t.flags.DF = s.flags.DF

/-- 43_multiply_divide.md R254 (DIV): where the quotient fits, quotient and remainder of the 2w-bit dividend. -/
def Obligations.DivWritesQuotientAndRemainder : Prop :=
  ∀ (i : Instr) (s : State) (w : Width) (src : Place w) (d : BitVec w.bits),
    i.mnemonic = .DIV → operandsOf i = .one src → readPlace s src = .ok d →
    d.toNat ≠ 0 → dividend w s.regs / d.toNat < 2 ^ w.bits →
    ∃ t, exec i s = .next t ∧ (t.regs.readView (accum w)).toNat = dividend w s.regs / d.toNat ∧
      (t.regs.readView (remainderView w)).toNat = dividend w s.regs % d.toNat ∧ WideKept w s t ∧ SameMemory s t ∧
      Advanced i s t ∧ t.flags.DF = s.flags.DF

/-- 43_multiply_divide.md R255 (IDIV): where the quotient fits, quotient toward zero and remainder with the dividend's sign. -/
def Obligations.IdivWritesSignedQuotientAndRemainder : Prop :=
  ∀ (i : Instr) (s : State) (w : Width) (src : Place w) (d : BitVec w.bits),
    i.mnemonic = .IDIV → operandsOf i = .one src → readPlace s src = .ok d →
    let n := (BitVec.ofNat (2 * w.bits) (dividend w s.regs)).toInt
    d.toInt ≠ 0 → -2 ^ (w.bits - 1) ≤ n.tdiv d.toInt → n.tdiv d.toInt < 2 ^ (w.bits - 1) →
    ∃ t, exec i s = .next t ∧ (t.regs.readView (accum w)).toInt = n.tdiv d.toInt ∧
      (t.regs.readView (remainderView w)).toInt = n.tmod d.toInt ∧ WideKept w s t ∧ SameMemory s t ∧
      Advanced i s t ∧ t.flags.DF = s.flags.DF

/-- 60_exceptions.md R442: where DIV, IDIV and AAM raise `DivideError`, with EIP; that a divisor in memory that faults gives its memory fault
instead; and that `DivideError` is raised nowhere else: by no other instruction, and by these on no other operands. -/
def Obligations.DivideErrorRaisedExactlyWhen : Prop :=
  (∀ (i : Instr) (s : State) (w : Width) (src : Place w) (d : BitVec w.bits),
    operandsOf i = .one src → readPlace s src = .ok d →
    (i.mnemonic = .DIV → d.toNat = 0 ∨ 2 ^ w.bits ≤ dividend w s.regs / d.toNat →
      exec i s = .fault (.divideError s.eip)) ∧
    (i.mnemonic = .IDIV →
      (let n := (BitVec.ofNat (2 * w.bits) (dividend w s.regs)).toInt
       d.toInt = 0 ∨ n.tdiv d.toInt < -2 ^ (w.bits - 1) ∨ 2 ^ (w.bits - 1) ≤ n.tdiv d.toInt) →
      exec i s = .fault (.divideError s.eip))) ∧
  (∀ (i : Instr) (s : State) (w : Width) (src : Place w) (f : Fault),
    i.mnemonic = .DIV ∨ i.mnemonic = .IDIV → operandsOf i = .one src → readPlace s src = .error f → exec i s = .fault f) ∧
  (∀ (i : Instr) (s : State), i.mnemonic = .AAM → operandsOf i = .imm (w := .w8) 0#8 → exec i s = .fault (.divideError s.eip)) ∧
  ∀ (i : Instr) (s : State) (e : Word), exec i s = .fault (.divideError e) →
    e = s.eip ∧
      (i.mnemonic = .AAM ∧ operandsOf i = .imm (w := .w8) 0#8 ∨
        ∃ (w : Width) (src : Place w) (d : BitVec w.bits), operandsOf i = .one src ∧ readPlace s src = .ok d ∧
          (i.mnemonic = .DIV ∧ (d.toNat = 0 ∨ 2 ^ w.bits ≤ dividend w s.regs / d.toNat) ∨
            i.mnemonic = .IDIV ∧
              (let n := (BitVec.ofNat (2 * w.bits) (dividend w s.regs)).toInt
               d.toInt = 0 ∨ n.tdiv d.toInt < -2 ^ (w.bits - 1) ∨ 2 ^ (w.bits - 1) ≤ n.tdiv d.toInt)))

/-! ## Shift and rotate -/

/-- 44_shift_rotate.md R270: the count is masked to five bits, and a masked count of 0 changes nothing but EIP; a memory destination is
still read and written back. -/
def Obligations.ShiftByZeroChangesNothing : Prop :=
  ∀ (i : Instr) (s : State) (w : Width) (dst : Place w) (cnt : Operand .w8) (d : BitVec w.bits) (n : Byte),
    i.mnemonic ∈ [Mnemonic.SHL, .SHR, .SAR, .ROL, .ROR, .RCL, .RCR] → operandsOf i = .byteSrc dst cnt →
    readPlace s dst = .ok d → readOperand s cnt = .ok n → n.toNat % 32 = 0 → canWrite s dst = true →
    ∃ t, exec i s = .next t ∧ t.regs = s.regs ∧ t.flags = s.flags ∧ SameMemory s t ∧ Advanced i s t

/-- 44_shift_rotate.md R271 (SHL), R278: `d * 2^c` modulo 2^w; CF is the last bit shifted out for every count. AF, and OF for a count
other than 1, are undefined and not constrained. -/
def Obligations.ShlWritesShiftedAndFlags : Prop :=
  ∀ (i : Instr) (s : State) (w : Width) (dst : Place w) (cnt : Operand .w8) (d : BitVec w.bits) (n : Byte),
    i.mnemonic = .SHL → operandsOf i = .byteSrc dst cnt → readPlace s dst = .ok d → readOperand s cnt = .ok n →
    n.toNat % 32 ≠ 0 → canWrite s dst = true →
    let c := n.toNat % 32
    let r := BitVec.ofNat w.bits (d.toNat * 2 ^ c)
    ∃ t, exec i s = .next t ∧ Written s t dst r ∧ Advanced i s t ∧
      t.flags.CF = decide (d.toNat * 2 ^ c / 2 ^ w.bits % 2 = 1) ∧ (c = 1 → t.flags.OF = (r.msb ^^ t.flags.CF)) ∧
      t.flags.SF = r.msb ∧ t.flags.ZF = (r == 0#w.bits) ∧ t.flags.PF = parityFlag r ∧ t.flags.DF = s.flags.DF

/-- 44_shift_rotate.md R272 (SHR), R278: `d / 2^c`. -/
def Obligations.ShrWritesShiftedAndFlags : Prop :=
  ∀ (i : Instr) (s : State) (w : Width) (dst : Place w) (cnt : Operand .w8) (d : BitVec w.bits) (n : Byte),
    i.mnemonic = .SHR → operandsOf i = .byteSrc dst cnt → readPlace s dst = .ok d → readOperand s cnt = .ok n →
    n.toNat % 32 ≠ 0 → canWrite s dst = true →
    let c := n.toNat % 32
    let r := BitVec.ofNat w.bits (d.toNat / 2 ^ c)
    ∃ t, exec i s = .next t ∧ Written s t dst r ∧ Advanced i s t ∧
      t.flags.CF = decide (d.toNat / 2 ^ (c - 1) % 2 = 1) ∧ (c = 1 → t.flags.OF = d.msb) ∧
      t.flags.SF = r.msb ∧ t.flags.ZF = (r == 0#w.bits) ∧ t.flags.PF = parityFlag r ∧ t.flags.DF = s.flags.DF

/-- 44_shift_rotate.md R273 (SAR), R278: the floor of the signed `d / 2^c`, modulo 2^w. -/
def Obligations.SarWritesShiftedAndFlags : Prop :=
  ∀ (i : Instr) (s : State) (w : Width) (dst : Place w) (cnt : Operand .w8) (d : BitVec w.bits) (n : Byte),
    i.mnemonic = .SAR → operandsOf i = .byteSrc dst cnt → readPlace s dst = .ok d → readOperand s cnt = .ok n →
    n.toNat % 32 ≠ 0 → canWrite s dst = true →
    let c := n.toNat % 32
    let r := BitVec.ofInt w.bits (d.toInt / 2 ^ c)
    ∃ t, exec i s = .next t ∧ Written s t dst r ∧ Advanced i s t ∧
      t.flags.CF = decide (d.toInt / 2 ^ (c - 1) % 2 = 1) ∧ (c = 1 → t.flags.OF = false) ∧
      t.flags.SF = r.msb ∧ t.flags.ZF = (r == 0#w.bits) ∧ t.flags.PF = parityFlag r ∧ t.flags.DF = s.flags.DF

/-- 44_shift_rotate.md R274 (ROL) and R275 (ROR): SF, ZF, AF and PF are unchanged; OF is constrained for a count of 1 only. -/
def Obligations.RolAndRorRotateAndSetCarry : Prop :=
  ∀ (i : Instr) (s : State) (w : Width) (dst : Place w) (cnt : Operand .w8) (d : BitVec w.bits) (n : Byte),
    operandsOf i = .byteSrc dst cnt → readPlace s dst = .ok d → readOperand s cnt = .ok n → n.toNat % 32 ≠ 0 →
    canWrite s dst = true →
    let c := n.toNat % 32
    (i.mnemonic = .ROL →
      let r := d.rotateLeft c
      ∃ t, exec i s = .next t ∧ Written s t dst r ∧ Advanced i s t ∧
        t.flags = { s.flags with CF := r.getLsbD 0, OF := t.flags.OF } ∧ (c = 1 → t.flags.OF = (r.msb ^^ r.getLsbD 0))) ∧
    (i.mnemonic = .ROR →
      let r := d.rotateRight c
      ∃ t, exec i s = .next t ∧ Written s t dst r ∧ Advanced i s t ∧
        t.flags = { s.flags with CF := r.msb, OF := t.flags.OF } ∧
        (c = 1 → t.flags.OF = (r.msb ^^ r.getLsbD (w.bits - 2))))

/-- 44_shift_rotate.md R276 (RCL) and R277 (RCR): the (w+1)-bit value `CF ++ d` is rotated, so by the count modulo w + 1; RCR's OF is
computed from the values before rotating. -/
def Obligations.RclAndRcrRotateThroughCarry : Prop :=
  ∀ (i : Instr) (s : State) (w : Width) (dst : Place w) (cnt : Operand .w8) (d : BitVec w.bits) (n : Byte),
    operandsOf i = .byteSrc dst cnt → readPlace s dst = .ok d → readOperand s cnt = .ok n → n.toNat % 32 ≠ 0 →
    canWrite s dst = true →
    let c := n.toNat % 32
    (i.mnemonic = .RCL →
      ∃ t r, exec i s = .next t ∧ Written s t dst r ∧ Advanced i s t ∧
        BitVec.cons t.flags.CF r = (BitVec.cons s.flags.CF d).rotateLeft c ∧
        t.flags = { s.flags with CF := t.flags.CF, OF := t.flags.OF } ∧ (c = 1 → t.flags.OF = (r.msb ^^ t.flags.CF))) ∧
    (i.mnemonic = .RCR →
      ∃ t r, exec i s = .next t ∧ Written s t dst r ∧ Advanced i s t ∧
        BitVec.cons t.flags.CF r = (BitVec.cons s.flags.CF d).rotateRight c ∧
        t.flags = { s.flags with CF := t.flags.CF, OF := t.flags.OF } ∧ (c = 1 → t.flags.OF = (d.msb ^^ s.flags.CF)))

/-! ## Bit operations -/

/-- 45_bit_ops.md R300 (BSF) and R301 (BSR): the index of the lowest or highest set bit; a source of 0 sets ZF and leaves the
destination unmodified; no other flag is written. -/
def Obligations.BitScanFindsLowestOrHighestBit : Prop :=
  ∀ (i : Instr) (s : State) (w : Width) (x : View w) (src : Operand w) (b : BitVec w.bits),
    i.mnemonic = .BSF ∨ i.mnemonic = .BSR → operandsOf i = .two (.reg x) src → readOperand s src = .ok b →
    (b = 0#w.bits →
      ∃ t, exec i s = .next t ∧ t.regs = s.regs ∧ SameMemory s t ∧ Advanced i s t ∧ t.flags = { s.flags with ZF := true }) ∧
    (b ≠ 0#w.bits →
      ∃ t k, exec i s = .next t ∧ k < w.bits ∧ b.getLsbD k = true ∧
        (i.mnemonic = .BSF → ∀ j, j < k → b.getLsbD j = false) ∧
        (i.mnemonic = .BSR → ∀ j, k < j → b.getLsbD j = false) ∧
        Written s t (.reg x) (BitVec.ofNat w.bits k) ∧ Advanced i s t ∧ t.flags = { s.flags with ZF := false })

/-- 45_bit_ops.md R302 (BSWAP): byte k of the result is byte 3 - k of the operand; no flag is written. -/
def Obligations.BswapReversesBytes : Prop :=
  ∀ (i : Instr) (s : State) (r : Reg), i.mnemonic = .BSWAP → operandsOf i = .one (w := .w32) (.reg (.d r)) →
    ∃ t v, exec i s = .next t ∧ Written s t (.reg (.d r)) v ∧ Advanced i s t ∧ t.flags = s.flags ∧
      ∀ k, k < 4 → v.extractLsb' (8 * k) 8 = (s.regs.get r).extractLsb' (8 * (3 - k)) 8

/-- 45_bit_ops.md R303 to R307 (BT, BTS, BTR, BTC): bit `index mod w` of the destination, also where the destination is memory; CF is the bit
before modification, and no other flag is written. BT writes nothing and needs no write permission. -/
def Obligations.BitTestUsesIndexModuloWidth : Prop :=
  ∀ (i : Instr) (s : State) (w : Width) (dst : Place w) (d : BitVec w.bits) (k : Nat),
    ((∃ (idx : Operand w) (x : BitVec w.bits), operandsOf i = .two dst idx ∧ readOperand s idx = .ok x ∧ k = x.toNat % w.bits) ∨
      ∃ (idx : Operand .w8) (x : Byte), operandsOf i = .byteSrc dst idx ∧ readOperand s idx = .ok x ∧ k = x.toNat % w.bits) →
    readPlace s dst = .ok d →
    (i.mnemonic = .BT →
      ∃ t, exec i s = .next t ∧ t.regs = s.regs ∧ SameMemory s t ∧ Advanced i s t ∧
        t.flags = { s.flags with CF := d.getLsbD k }) ∧
    (∀ bit : Bool, canWrite s dst = true →
      (i.mnemonic = .BTS ∧ bit = true ∨ i.mnemonic = .BTR ∧ bit = false ∨ i.mnemonic = .BTC ∧ bit = !d.getLsbD k) →
      ∃ t r, exec i s = .next t ∧ Written s t dst r ∧ Advanced i s t ∧ t.flags = { s.flags with CF := d.getLsbD k } ∧
        ∀ j, j < w.bits → r.getLsbD j = if j = k then bit else d.getLsbD j)

/-! ## Conditional move -/

/-- 46_conditional_move.md R321 (with R322 to R337): the source is written where the predicate holds; where it does not, no register
changes. No flag is written. -/
def Obligations.CmovWritesOnlyWhenPredicateHolds : Prop :=
  ∀ (i : Instr) (s : State) (cc : Cond) (w : Width) (x : View w) (src : Operand w) (v : BitVec w.bits),
    cmovCond i.mnemonic = some cc → operandsOf i = .two (.reg x) src → readOperand s src = .ok v →
    ∃ t, exec i s = .next t ∧ Advanced i s t ∧ t.flags = s.flags ∧
      (pred s.flags cc = true → Written s t (.reg x) v) ∧ (pred s.flags cc = false → t.regs = s.regs ∧ SameMemory s t)

/-! ## Control transfer -/

/-- 47_control_transfer.md R351 (CALL rel32), with R350: the return address is pushed at ESP - 4, little-endian, and EIP is `next_ip` plus the
displacement; no flag and no other register is written. -/
def Obligations.CallRelativePushesAndJumps : Prop :=
  ∀ (i : Instr) (s : State) (disp : Word),
    i.mnemonic = .CALL → operandsOf i = .target disp → s.mem.Admitted .write (s.regs.esp - 4#32).toNat 4 →
    let next := s.eip + BitVec.ofNat 32 i.length
    ∃ t, exec i s = .next t ∧ t.eip = next + disp ∧ t.regs = { s.regs with esp := s.regs.esp - 4#32 } ∧ t.flags = s.flags ∧
      MemWritten s t (s.regs.esp - 4#32).toNat 4 next.toNat

/-- 47_control_transfer.md R352 (CALL r/m32): as R351, with the target read from the state before the push. -/
def Obligations.CallIndirectReadsTargetThenPushes : Prop :=
  ∀ (i : Instr) (s : State) (src : Place .w32) (target : Word),
    i.mnemonic = .CALL → operandsOf i = .one src → readPlace s src = .ok target →
    s.mem.Admitted .write (s.regs.esp - 4#32).toNat 4 →
    let next := s.eip + BitVec.ofNat 32 i.length
    ∃ t, exec i s = .next t ∧ t.eip = target ∧ t.regs = { s.regs with esp := s.regs.esp - 4#32 } ∧ t.flags = s.flags ∧
      MemWritten s t (s.regs.esp - 4#32).toNat 4 next.toNat

/-- 47_control_transfer.md R353 (RET) and R354 (RET imm16). -/
def Obligations.RetPopsAndReleases : Prop :=
  ∀ (i : Instr) (s : State) (v : Word) (n : BitVec 16),
    i.mnemonic = .RET → (operandsOf i = .none ∧ n = 0#16 ∨ operandsOf i = .imm (w := .w16) n) →
    memRead s.mem .w32 s.regs.esp = .ok v →
    ∃ t, exec i s = .next t ∧ t.eip = v ∧ t.regs = { s.regs with esp := s.regs.esp + 4#32 + n.setWidth 32 } ∧
      t.flags = s.flags ∧ SameMemory s t

/-- 47_control_transfer.md R355, R356 (JMP rel8, rel32) and R357 (JMP r/m32): only EIP changes. -/
def Obligations.JmpChangesOnlyEip : Prop :=
  ∀ (i : Instr) (s : State) (target : Word), i.mnemonic = .JMP →
    ((∃ disp, operandsOf i = .target disp ∧ target = s.eip + BitVec.ofNat 32 i.length + disp) ∨
      ∃ src : Place .w32, operandsOf i = .one src ∧ readPlace s src = .ok target) →
    ∃ t, exec i s = .next t ∧ t.eip = target ∧ t.regs = s.regs ∧ t.flags = s.flags ∧ SameMemory s t

/-- 47_control_transfer.md R358 (with R359 to R374): Jcc goes to `next_ip` plus the displacement where the predicate holds, else to
`next_ip`; only EIP changes. -/
def Obligations.JccJumpsExactlyWhenPredicateHolds : Prop :=
  ∀ (i : Instr) (s : State) (cc : Cond) (disp : Word), jccCond i.mnemonic = some cc → operandsOf i = .target disp →
    ∃ t, exec i s = .next t ∧ t.regs = s.regs ∧ t.flags = s.flags ∧ SameMemory s t ∧
      (pred s.flags cc = true → t.eip = s.eip + BitVec.ofNat 32 i.length + disp) ∧ (pred s.flags cc = false → Advanced i s t)

/-- 47_control_transfer.md R375 (b): a CALL, then a RET whose ESP is the CALL's and whose stack slot is readable and still holds what the CALL
pushed, goes back to the CALL's `next_ip` with ESP restored. -/
def Obligations.RetUndoesCall : Prop :=
  ∀ (c r : Instr) (s t u : State), c.mnemonic = .CALL → r.mnemonic = .RET → operandsOf r = .none →
    exec c s = .next t → u.regs.esp = t.regs.esp → u.mem.Admitted .read t.regs.esp.toNat 4 →
    (∀ k, k < 4 → Memory.read u.mem.bytes (t.regs.esp.toNat + k) = Memory.read t.mem.bytes (t.regs.esp.toNat + k)) →
    ∃ v, exec r u = .next v ∧ v.eip = s.eip + BitVec.ofNat 32 c.length ∧ v.regs.esp = s.regs.esp

/-! ## String compare and flag control -/

/-- 48_string_and_flags.md R390 to R393 (CMPSB, CMPSW, CMPSD): the flags of `[ESI] - [EDI]`; ESI and EDI move by the width in bytes, up where
DF = 0 and down where DF = 1; memory is only read. -/
def Obligations.CmpsComparesAndMovesPointers : Prop :=
  ∀ (i : Instr) (s : State) (w : Width) (a b : BitVec w.bits), cmpsWidth i.mnemonic = some w →
    memRead s.mem w s.regs.esi = .ok a → memRead s.mem w s.regs.edi = .ok b →
    let n := BitVec.ofNat 32 w.bytes
    ∃ t, exec i s = .next t ∧ SameMemory s t ∧ Advanced i s t ∧
      t.regs =
        { s.regs with
          esi := if s.flags.DF then s.regs.esi - n else s.regs.esi + n
          edi := if s.flags.DF then s.regs.edi - n else s.regs.edi + n } ∧
      t.flags =
        { CF := decide (a.toNat < b.toNat)
          OF := a.msb != b.msb && (a - b).msb != a.msb
          AF := (a ^^^ b ^^^ (a - b)).getLsbD 4
          SF := (a - b).msb, ZF := a == b, PF := parityFlag (a - b), DF := s.flags.DF }

/-- 48_string_and_flags.md R394 to R398 (CLC, STC, CMC, CLD, STD): each changes one flag and EIP. -/
def Obligations.FlagControlChangesOneFlag : Prop :=
  ∀ (i : Instr) (s : State) (x : Flags),
    (i.mnemonic = .CLC ∧ x = { s.flags with CF := false } ∨ i.mnemonic = .STC ∧ x = { s.flags with CF := true } ∨
      i.mnemonic = .CMC ∧ x = { s.flags with CF := !s.flags.CF } ∨ i.mnemonic = .CLD ∧ x = { s.flags with DF := false } ∨
      i.mnemonic = .STD ∧ x = { s.flags with DF := true }) →
    exec i s = .next { s with flags := x, eip := s.eip + BitVec.ofNat 32 i.length }

/-! ## BCD adjust, sign extension, moves -/

/-- 49_bcd_extension_moves.md R410 (AAD): AL gets AL + AH * base modulo 256, AH gets 0. OF, AF and CF are undefined and not constrained. -/
def Obligations.AadComputesAxAndFlags : Prop :=
  ∀ (i : Instr) (s : State) (base : Byte), i.mnemonic = .AAD → operandsOf i = .imm (w := .w8) base →
    let r : Byte := BitVec.ofNat 8 ((s.regs.readView (.b .al)).toNat + (s.regs.readView (.b .ah)).toNat * base.toNat)
    ∃ t, exec i s = .next t ∧ t.regs = { s.regs with eax := s.regs.eax.extractLsb' 16 16 ++ 0#8 ++ r } ∧ SameMemory s t ∧
      Advanced i s t ∧ t.flags.SF = r.msb ∧ t.flags.ZF = (r == 0#8) ∧ t.flags.PF = parityFlag r ∧ t.flags.DF = s.flags.DF

/-- 49_bcd_extension_moves.md R411 (AAM) of a base that is not 0: AH gets AL div base, AL gets AL mod base. OF, AF and CF are undefined and not
constrained. -/
def Obligations.AamComputesAxAndFlags : Prop :=
  ∀ (i : Instr) (s : State) (base : Byte), i.mnemonic = .AAM → operandsOf i = .imm (w := .w8) base → base ≠ 0#8 →
    let al := (s.regs.readView (.b .al)).toNat
    let r : Byte := BitVec.ofNat 8 (al % base.toNat)
    ∃ t, exec i s = .next t ∧
      t.regs = { s.regs with eax := s.regs.eax.extractLsb' 16 16 ++ BitVec.ofNat 8 (al / base.toNat) ++ r } ∧ SameMemory s t ∧
      Advanced i s t ∧ t.flags.SF = r.msb ∧ t.flags.ZF = (r == 0#8) ∧ t.flags.PF = parityFlag r ∧ t.flags.DF = s.flags.DF

/-- 49_bcd_extension_moves.md R412 (CBW), R413 (CWDE), R414 (CWD), R415 (CDQ): the sign bit fills the wider place; nothing else changes but
EIP. -/
def Obligations.SignExtensionFillsWiderPlace : Prop :=
  ∀ (i : Instr) (s : State) (x : RegFile),
    (i.mnemonic = .CBW ∧
        x = { s.regs with eax := s.regs.eax.extractLsb' 16 16 ++ (s.regs.eax.extractLsb' 0 8).signExtend 16 } ∨
      i.mnemonic = .CWDE ∧ x = { s.regs with eax := (s.regs.eax.extractLsb' 0 16).signExtend 32 } ∨
      i.mnemonic = .CWD ∧
        x = { s.regs with edx := s.regs.edx.extractLsb' 16 16 ++ (s.regs.eax.extractLsb' 0 16).sshiftRight 15 } ∨
      i.mnemonic = .CDQ ∧ x = { s.regs with edx := s.regs.eax.sshiftRight 31 }) →
    exec i s = .next { s with regs := x, eip := s.eip + BitVec.ofNat 32 i.length }

/-- 49_bcd_extension_moves.md R416 to R420 (MOV): the source's value is written; the destination is not read; no flag is written. -/
def Obligations.MovWritesSourceAndKeepsFlags : Prop :=
  ∀ (i : Instr) (s : State) (w : Width) (dst : Place w) (src : Operand w) (v : BitVec w.bits),
    i.mnemonic = .MOV → operandsOf i = .two dst src → readOperand s src = .ok v → canWrite s dst = true →
    ∃ t, exec i s = .next t ∧ Written s t dst v ∧ Advanced i s t ∧ t.flags = s.flags

/-- 49_bcd_extension_moves.md R421 (MOVZX) and R422 (MOVSX): the source has a width of its own; the value as an unsigned number, or as a signed
one, is kept. -/
def Obligations.MovzxAndMovsxKeepValue : Prop :=
  ∀ (i : Instr) (s : State) (w v : Width) (x : View w) (src : Place v) (a : BitVec v.bits) (r : BitVec w.bits),
    operandsOf i = .widen (.reg x) src → readPlace s src = .ok a →
    (i.mnemonic = .MOVZX ∧ r.toNat = a.toNat ∨ i.mnemonic = .MOVSX ∧ r.toInt = a.toInt) →
    ∃ t, exec i s = .next t ∧ Written s t (.reg x) r ∧ Advanced i s t ∧ t.flags = s.flags

/-- 49_bcd_extension_moves.md R434 (LEA), with 40_execution.md R167: base plus index times scale plus displacement, modulo 2^32 and then 2^w,
whether or not the bytes there are mapped; no memory is accessed. -/
def Obligations.LeaWritesEffectiveAddress : Prop :=
  ∀ (i : Instr) (s : State) (w : Width) (x : View w) (e : EaExpr),
    i.mnemonic = .LEA → operandsOf i = .two (.reg x) (.place (.mem e)) →
    let cell := fun r : Option Reg => (r.elim 0#32 s.regs.get).toNat
    let ea := (cell e.base + cell e.index * e.scale.factor.toNat + e.disp.toNat) % 2 ^ 32
    ∃ t, exec i s = .next t ∧ Written s t (.reg x) (BitVec.ofNat w.bits ea) ∧ Advanced i s t ∧ t.flags = s.flags

/-! ## Operands of every form -/

/-- 30_encoding.md R115: the shape of the operands of every instruction, by mnemonic, so that the statements above shut no form out; and
40_execution.md R161 with 30_encoding.md R114: the descriptor of a relative transfer holds its target, resolved. -/
def Obligations.OperandShapesOfEveryMnemonic : Prop :=
  ∀ i : Instr,
    (i.mnemonic ∈ [Mnemonic.ADD, .OR, .ADC, .SBB, .AND, .SUB, .XOR, .CMP, .TEST, .MOV] →
      ∃ (w : Width) (dst : Place w) (src : Operand w), operandsOf i = .two dst src) ∧
    (i.mnemonic ∈ [Mnemonic.INC, .DEC, .NOT, .NEG, .MUL, .DIV, .IDIV] →
      ∃ (w : Width) (dst : Place w), operandsOf i = .one dst) ∧
    (i.mnemonic = .IMUL →
      (∃ (w : Width) (src : Place w), operandsOf i = .one src) ∨
      (∃ (w : Width) (x : View w) (src : Operand w), operandsOf i = .two (.reg x) src) ∨
      ∃ (w : Width) (x : View w) (src : Place w) (v : Operand w), operandsOf i = .three (.reg x) src v) ∧
    (i.mnemonic ∈ [Mnemonic.ROL, .ROR, .RCL, .RCR, .SHL, .SHR, .SAR] →
      ∃ (w : Width) (dst : Place w) (cnt : Operand .w8), operandsOf i = .byteSrc dst cnt) ∧
    (i.mnemonic ∈ [Mnemonic.BT, .BTS, .BTR, .BTC] →
      (∃ (w : Width) (dst : Place w) (idx : Operand w), operandsOf i = .two dst idx) ∨
      ∃ (w : Width) (dst : Place w) (idx : Operand .w8), operandsOf i = .byteSrc dst idx) ∧
    (i.mnemonic = .BSF ∨ i.mnemonic = .BSR ∨ (cmovCond i.mnemonic).isSome →
      ∃ (w : Width) (x : View w) (src : Operand w), operandsOf i = .two (.reg x) src) ∧
    (i.mnemonic = .BSWAP → ∃ r : Reg, operandsOf i = .one (w := .w32) (.reg (.d r))) ∧
    (i.mnemonic = .MOVZX ∨ i.mnemonic = .MOVSX →
      ∃ (w v : Width) (x : View w) (src : Place v), v.bits ≤ w.bits ∧ operandsOf i = .widen (.reg x) src) ∧
    (i.mnemonic = .LEA → ∃ (w : Width) (x : View w) (e : EaExpr), operandsOf i = .two (.reg x) (.place (.mem e))) ∧
    (i.mnemonic = .CALL ∨ i.mnemonic = .JMP →
      (∃ disp : Word, operandsOf i = .target disp) ∨ ∃ src : Place .w32, operandsOf i = .one src) ∧
    (i.mnemonic = .RET → operandsOf i = .none ∨ ∃ n : BitVec 16, operandsOf i = .imm (w := .w16) n) ∧
    ((jccCond i.mnemonic).isSome → ∃ disp : Word, operandsOf i = .target disp) ∧
    (i.mnemonic = .AAD ∨ i.mnemonic = .AAM → ∃ base : Byte, operandsOf i = .imm (w := .w8) base) ∧
    (i.mnemonic ∈ [Mnemonic.CBW, .CWDE, .CWD, .CDQ, .CMPSB, .CMPSW, .CMPSD, .CLC, .STC, .CMC, .CLD, .STD] →
      operandsOf i = .none) ∧
    ∀ disp eip : Word, operandsOf i = .target disp →
      (descriptorOf i eip).operands = [⟨.w32, .imm (eip + BitVec.ofNat 32 i.length + disp)⟩]

/-! ## Registers and memory -/

/-- 10_state.md R31 to R34: the view a register field names at each width, and that writing a view keeps every bit of its cell outside the view
and every other cell. -/
def Obligations.ViewWriteKeepsOtherBits : Prop :=
  (∀ (x : RegFile) (k : BitVec 3),
    x.readView (viewOfNum .w32 k) = x.get (Reg.ofNum k) ∧
    x.readView (viewOfNum .w16 k) = (x.get (Reg.ofNum k)).extractLsb' 0 16 ∧
    x.readView (viewOfNum .w8 k) =
      if k.toNat < 4 then (x.get (Reg.ofNum k)).extractLsb' 0 8 else (x.get (Reg.ofNum (k - 4#3))).extractLsb' 8 8) ∧
  (∀ r : Reg, [Reg.eax, .ecx, .edx, .ebx, .esp, .ebp, .esi, .edi][r.num.toNat]? = some r ∧ Reg.ofNum r.num = r) ∧
  ∀ (s : State) (w : Width) (x : View w) (v : BitVec w.bits), RegWritten s (setView s x v) x v

/-- 20_memory.md R64, R66: a checked read gives the little-endian value of its bytes where all are admitted for read, and else the fault of
the first byte, in ascending order and not wrapped, that is not. -/
def Obligations.CheckedReadGivesValueOrFirstFault : Prop :=
  ∀ (x : AddressSpace) (w : Width) (a : Word),
    (x.Admitted .read a.toNat w.bytes →
      ∃ v : BitVec w.bits, memRead x w a = .ok v ∧
        ∀ k, k < w.bytes → v.extractLsb' (8 * k) 8 = Memory.read x.bytes (a.toNat + k)) ∧
    ∀ j, j < w.bytes → x.Admitted .read a.toNat j → x.admits .read (a.toNat + j) = false →
      memRead x w a =
        .error (.memoryFault (if x.mapped (a.toNat + j) then .permissionDenied else .unmapped) (a.toNat + j))

/-- 20_memory.md R64, R65, R69: the host's `read` and `write` of any length: all bytes, or the fault of the first byte that is not admitted and
nothing. -/
def Obligations.HostAccessIsAllOrNothing : Prop :=
  ∀ (x : AddressSpace) (addr : Nat) (bytes : List Byte),
    (x.Admitted .write addr bytes.length →
      ∃ y, hostWrite x addr bytes = .ok y ∧ y.maps = x.maps ∧
        (∀ k (h : k < bytes.length), Memory.read y.bytes (addr + k) = bytes[k]) ∧
        ∀ b, (b < addr ∨ addr + bytes.length ≤ b) → Memory.read y.bytes b = Memory.read x.bytes b) ∧
    (∀ j, j < bytes.length → x.Admitted .write addr j → x.admits .write (addr + j) = false →
      hostWrite x addr bytes =
        .error (.memoryFault (if x.mapped (addr + j) then .permissionDenied else .unmapped) (addr + j))) ∧
    ∀ len,
      (x.Admitted .read addr len →
        ∃ l, hostRead x addr len = .ok l ∧ l.length = len ∧ ∀ k (h : k < l.length), l[k] = Memory.read x.bytes (addr + k)) ∧
      ∀ j, j < len → x.Admitted .read addr j → x.admits .read (addr + j) = false →
        hostRead x addr len =
          .error (.memoryFault (if x.mapped (addr + j) then .permissionDenied else .unmapped) (addr + j))

/-- 20_memory.md R62: when `mmap` is refused, and that it otherwise adds exactly the mapping asked for, in start order (which `wf` asks of
the list), so that exactly its bytes are newly admitted, with its permissions. The clause `y.bytes = x.bytes` is the model's choice (log
entry 17): R62 and R78 leave the bytes of the new region open. -/
def Obligations.MmapAddsRegionOrIsRefused : Prop :=
  ∀ (cfg : Config) (x : AddressSpace) (addr size : Nat) (perm : Perm), x.wf cfg.pageSize = true →
    (mmap cfg x addr size perm = .error .mapError ↔
      size = 0 ∨ addr % cfg.pageSize ≠ 0 ∨ size % cfg.pageSize ≠ 0 ∨ 2 ^ 32 < addr + size ∨
        ∃ a, addr ≤ a ∧ a < addr + size ∧ x.mapped a = true) ∧
    ∀ y, mmap cfg x addr size perm = .ok y →
      y.bytes = x.bytes ∧ y.maps.Perm (⟨addr, size, perm⟩ :: x.maps) ∧ y.wf cfg.pageSize = true ∧
        ∀ k a, y.admits k a = (decide (addr ≤ a ∧ a < addr + size) && perm.allows k || x.admits k a)

/-! ## Encoding -/

/-- 30_encoding.md R100 to R120: the decoder reads every well-formed instruction, with every operand at every value the encoding admits, from the
bytes the encoder gives it, whatever bytes follow; no instruction is longer than 13 bytes (95_test_vectors.md, Part 4). -/
def Obligations.DecodeOfEncodeIsIdentity : Prop :=
  ∀ (i : Instr) (rest : List Byte), i.wf = true →
    decode (encode i ++ rest) = .got i rest ∧ 1 ≤ (encode i).length ∧ (encode i).length ≤ 13

/-- 30_encoding.md R103, R105, R117: what the decoder accepts is well formed, and the bytes it read are those the encoder gives; LOCK stands only on
the mnemonics R105 lists, with a destination in memory; `66` gives operand width 16. The clause `bs = encode i ++ rest` rests on the model's
choice that a term keeps the prefix order and an unused SIB scale (log entry 10): the descriptor of 40_execution.md R161 has no place for
that scale. -/
def Obligations.DecodedIsWellFormedAndEncoded : Prop :=
  ∀ (bs rest : List Byte) (i : Instr), decode bs = .got i rest →
    i.wf = true ∧ bs = encode i ++ rest ∧ (Prefix.lock ∈ i.prefixes → Lockable i) ∧
      (Prefix.opsize ∈ i.prefixes → i.width = some .w16)

/-- 30_encoding.md R103 to R107, R140: the encodings that are refused, by verdict, after any prefixes that may stand together and before any
bytes. `UnsupportedInstruction`: refused prefixes; a repeated prefix or second segment override; an opcode that no row of the table has
(`82`, `90` and `0F 1F` among them); the digits that no row of groups 2, 3 and 5 has; `66` on a row that does not take it.
`InvalidOpcode`: UD2, LEA of a register, the digits R140 lists; LOCK where R105 forbids it. An instruction that breaks R103 and R105 at
once is left out: the order of these two is the model's inference (log entry 8). -/
def Obligations.RefusedEncodingsGiveTheirVerdict : Prop :=
  (∀ (p : Prefixes) (bs : List Byte), p.wf = true →
    (∀ b ∈ [0x64#8, 0x65#8, 0x67#8, 0xF2#8, 0xF3#8], decode (p.map Prefix.byte ++ b :: bs) = .refuse .unsupportedInstruction bs) ∧
    (∀ q : Prefix, (∃ o ∈ p, o = q ∨ ∃ x y, o = .seg x ∧ q = .seg y) →
      decode (p.map Prefix.byte ++ q.byte :: bs) = .refuse .unsupportedInstruction bs) ∧
    (∀ b : Byte, (∀ f : Form, f.row.hasOpcode false b = false) → prefixOf b = none → refusedPrefix b = false → b ≠ 0x0F#8 →
      decode (p.map Prefix.byte ++ b :: bs) = .refuse .unsupportedInstruction bs) ∧
    (∀ b : Byte, (∀ f : Form, f.row.hasOpcode true b = false) → b ≠ 0x0B#8 →
      decode (p.map Prefix.byte ++ 0x0F#8 :: b :: bs) = .refuse .unsupportedInstruction bs) ∧
    (∀ b ∈ [0x82#8, 0x90#8], decode (p.map Prefix.byte ++ b :: bs) = .refuse .unsupportedInstruction bs) ∧
    decode (p.map Prefix.byte ++ 0x0F#8 :: 0x1F#8 :: bs) = .refuse .unsupportedInstruction bs ∧
    decode (p.map Prefix.byte ++ 0x0F#8 :: 0x0B#8 :: bs) = .refuse .invalidOpcode bs ∧
    ∀ m : Byte,
      (regOf m = 6#3 → ∀ b ∈ [0xC0#8, 0xC1#8, 0xD0#8, 0xD1#8, 0xD2#8, 0xD3#8],
        decode (p.map Prefix.byte ++ b :: m :: bs) = .refuse .unsupportedInstruction bs) ∧
      (regOf m = 1#3 → ∀ b ∈ [0xF6#8, 0xF7#8], decode (p.map Prefix.byte ++ b :: m :: bs) = .refuse .unsupportedInstruction bs) ∧
      (regOf m ∈ [3#3, 5#3, 6#3] → decode (p.map Prefix.byte ++ 0xFF#8 :: m :: bs) = .refuse .unsupportedInstruction bs) ∧
      (modOf m = 3#2 → decode (p.map Prefix.byte ++ 0x8D#8 :: m :: bs) = .refuse .invalidOpcode bs) ∧
      (2 ≤ (regOf m).toNat → decode (p.map Prefix.byte ++ 0xFE#8 :: m :: bs) = .refuse .invalidOpcode bs) ∧
      (regOf m = 7#3 → decode (p.map Prefix.byte ++ 0xFF#8 :: m :: bs) = .refuse .invalidOpcode bs) ∧
      (regOf m ≠ 0#3 → decode (p.map Prefix.byte ++ 0xC6#8 :: m :: bs) = .refuse .invalidOpcode bs ∧
        decode (p.map Prefix.byte ++ 0xC7#8 :: m :: bs) = .refuse .invalidOpcode bs) ∧
      ((regOf m).toNat < 4 → decode (p.map Prefix.byte ++ 0x0F#8 :: 0xBA#8 :: m :: bs) = .refuse .invalidOpcode bs)) ∧
  ∀ (i : Instr) (bs : List Byte), i.prefixes.wf = true →
    (Prefix.lock ∈ i.prefixes → ¬ Lockable i → (Prefix.opsize ∈ i.prefixes → i.width = some .w16) →
      ∃ l, decode (encode i ++ bs) = .refuse .invalidOpcode l) ∧
    (Prefix.opsize ∈ i.prefixes → i.width ≠ some .w16 → i.mnemonic ∉ [Mnemonic.CWDE, .CDQ, .CMPSD] →
      (Prefix.lock ∈ i.prefixes → Lockable i) → ∃ l, decode (encode i ++ bs) = .refuse .unsupportedInstruction l)

/-- 00_scope.md R12, 30_encoding.md R140: with ADMIT_TIER_G false exactly the rows of tier S decode, to the same instruction; a row of tier G is
`UnsupportedInstruction`. -/
def Obligations.TierGRefusedWhenNotAdmitted : Prop :=
  ∀ (bs rest : List Byte) (i : Instr),
    (decodeWith false bs = .got i rest ↔ decodeWith true bs = .got i rest ∧ i.form.row.tier = .S) ∧
    (decodeWith true bs = .got i rest → i.form.row.tier = .G →
      ∃ rest', decodeWith false bs = .refuse .unsupportedInstruction rest')

/-- 30_encoding.md R104, R105; 20_memory.md R82: a segment override or LOCK that is accepted has no effect. Two instructions that differ in no
more than these prefixes, and in length, give the same next state where they end at the same address. -/
def Obligations.IgnoredPrefixesHaveNoEffect : Prop :=
  ∀ (i j : Instr) (s t : State), i.form = j.form → i.raw = j.raw →
    (Prefix.opsize ∈ i.prefixes ↔ Prefix.opsize ∈ j.prefixes) → exec i s = .next t →
    exec j { s with eip := s.eip + BitVec.ofNat 32 i.length - BitVec.ofNat 32 j.length } = .next t

/-- 30_encoding.md R118 to R120, on words written out from its tables: the two decodings the source states, and one each of CALL rel32, CMOVAE, a
13-byte LOCK ADD with an ignored CS override, and BTC by an immediate at width 16. -/
def Obligations.DecodedWordsFromTables : Prop :=
  decode [0x01#8, 0xF9#8] = .got (.addRmR [] (.reg .ecx) .edi) [] ∧
  decode [0xD5#8, 0xFF#8] = .got (.aadImm8 [] 0xFF#8) [] ∧
  decode [0xE8#8, 0x10#8, 0x00#8, 0x00#8, 0x00#8] = .got (.callRel32 [] 0x10#32) [] ∧
  decode [0x0F#8, 0x43#8, 0xC1#8] = .got (.cmovaeRRm [] .eax (.reg .ecx)) [] ∧
  decode [0xF0#8, 0x2E#8, 0x81#8, 0x84#8, 0xC8#8, 0x00#8, 0x20#8, 0x40#8, 0x00#8, 0x78#8, 0x56#8, 0x34#8, 0x12#8] =
    .got (.addRmImm [.lock, .seg .cs] (.mem (.sibDisp32 ⟨.x8, some .ecx⟩ .eax 0x00402000#32)) (.i32 0x12345678#32)) [] ∧
  decode [0x66#8, 0x0F#8, 0xBA#8, 0xF8#8, 0x11#8] = .got (.btcRmImm8 [.opsize] (.reg .eax) 0x11#8) []

/-! ## The step -/

/-- 40_execution.md R160; 20_memory.md R70: where bytes at EIP that may be fetched decode to an instruction, the step is `exec` of it, with
nothing around it. The bytes after the instruction do not matter and need not be mapped. -/
def Obligations.StepRunsDecodedInstruction : Prop :=
  ∀ (s : State) (n : Nat) (i : Instr), s.mem.Admitted .execute s.eip.toNat n → n ≤ 15 →
    decode (bytesAt s.mem.bytes s.eip.toNat n) = .got i [] → step s = exec i s

/-- 20_memory.md R70; 60_exceptions.md R441, R445: a verdict that the bytes fetched settle wins over a byte that cannot be fetched; a byte that is
still needed and may not be fetched is a memory fault at its address. -/
def Obligations.FetchAndDecodeFaultsInOrder : Prop :=
  ∀ (s : State) (n : Nat), s.mem.Admitted .execute s.eip.toNat n → n ≤ 15 →
    let bytes := bytesAt s.mem.bytes s.eip.toNat n
    (decode bytes = .refuse .invalidOpcode [] → step s = .fault (.invalidOpcode s.eip bytes)) ∧
    (decode bytes = .refuse .unsupportedInstruction [] → step s = .fault (.unsupportedInstruction s.eip bytes)) ∧
    (decode bytes = .more → n < 15 → s.mem.admits .execute (s.eip.toNat + n) = false →
      step s =
        .fault (.memoryFault (if s.mem.mapped (s.eip.toNat + n) then .permissionDenied else .unmapped) (s.eip.toNat + n)))

/-- 60_exceptions.md R444; 20_memory.md R71: a step never refuses; a memory fault is never `Misaligned`, and its kind says whether a mapping holds
the byte; a decode verdict carries EIP and the bytes there. -/
def Obligations.StepNeverRefusesAndFaultPayloads : Prop :=
  ∀ s : State,
    (∀ r, step s ≠ .refused r) ∧
    (∀ k a, step s = .fault (.memoryFault k a) →
      k = if s.mem.mapped a then .permissionDenied else .unmapped) ∧
    (∀ e bs, step s = .fault (.invalidOpcode e bs) ∨ step s = .fault (.unsupportedInstruction e bs) →
      e = s.eip ∧ bs ≠ [] ∧ bs = bytesAt s.mem.bytes s.eip.toNat bs.length)

/-- 40_execution.md R166, R175; 20_memory.md R68; 44_shift_rotate.md R270; 46_conditional_move.md R321: a memory operand that cannot be read, a
stack slot or string element that cannot be read, and a store that is not admitted fault with the first failing byte; a store's check comes
after the read. -/
def Obligations.OperandFaultsAtFirstByte : Prop :=
  ∀ (i : Instr) (s : State) (f : Fault),
    (∀ w e, readsFrom i = some (w, e) → memRead s.mem w (e.address s.regs) = .error f → exec i s = .fault f) ∧
    (∀ a n j, storesTo i s = some (a, n) → readsOk i s = true → j < n → s.mem.Admitted .write a j →
      s.mem.admits .write (a + j) = false →
      exec i s = .fault (.memoryFault (if s.mem.mapped (a + j) then .permissionDenied else .unmapped) (a + j))) ∧
    (i.mnemonic = .RET → memRead s.mem .w32 s.regs.esp = .error f → exec i s = .fault f) ∧
    (∀ w, cmpsWidth i.mnemonic = some w →
      (memRead s.mem w s.regs.esi = .error f → exec i s = .fault f) ∧
      ∀ a, memRead s.mem w s.regs.esi = .ok a → memRead s.mem w s.regs.edi = .error f → exec i s = .fault f)

/-- 10_state.md R35, R39, R41; 40_execution.md R176: the footprint of every instruction: cells, flags, EIP, bytes of memory, mappings. -/
def Obligations.FootprintOfEveryInstruction : Prop :=
  ∀ (i : Instr) (s t : State), exec i s = .next t →
    SameCellsBut s t (cellsWritten i) ∧
    (∀ f, f ∉ flagsWritten i.mnemonic → getFlag t.flags f = getFlag s.flags f) ∧
    (isTransfer i.mnemonic = false → Advanced i s t) ∧
    (∀ b, (∀ a n, storesTo i s = some (a, n) → b < a ∨ a + n ≤ b) → Memory.read t.mem.bytes b = Memory.read s.mem.bytes b) ∧
    t.mem.maps = s.mem.maps

/-- 20_memory.md R63, R76, R77: no step changes a byte that is not admitted for write, and none changes a mapping. -/
def Obligations.OnlyWritableBytesChange : Prop :=
  ∀ s t : State, step s = .next t →
    t.mem.maps = s.mem.maps ∧
      ∀ a, Memory.read t.mem.bytes a ≠ Memory.read s.mem.bytes a → s.mem.admits .write a = true

/-- 20_memory.md R60 ("meaningful only at mapped addresses"): states that differ only in bytes that no mapping holds give the same outcome. So no
step depends on what such a byte, or a byte that is not listed, is taken to hold (log entry 2). -/
def Obligations.UnmappedBytesDoNotMatter : Prop := ∀ s t : State, SameArch s t → SameOutcome (step s) (step t)

/-- 41_arithmetic.md R209; 46_conditional_move.md R320: after CMP of a and b the unsigned predicates compare them as numbers and the signed ones as
signed numbers. -/
def Obligations.PredicatesAfterCmpCompare : Prop :=
  ∀ (i : Instr) (s t : State) (w : Width) (dst : Place w) (src : Operand w) (a b : BitVec w.bits),
    i.mnemonic = .CMP → operandsOf i = .two dst src → readPlace s dst = .ok a → readOperand s src = .ok b →
    exec i s = .next t →
    pred t.flags .E = decide (a = b) ∧ pred t.flags .NE = decide (a ≠ b) ∧
    pred t.flags .B = decide (a.toNat < b.toNat) ∧ pred t.flags .AE = decide (b.toNat ≤ a.toNat) ∧
    pred t.flags .BE = decide (a.toNat ≤ b.toNat) ∧ pred t.flags .A = decide (b.toNat < a.toNat) ∧
    pred t.flags .L = decide (a.toInt < b.toInt) ∧ pred t.flags .GE = decide (b.toInt ≤ a.toInt) ∧
    pred t.flags .LE = decide (a.toInt ≤ b.toInt) ∧ pred t.flags .G = decide (b.toInt < a.toInt)

/-! ## Invariant and runs -/

/-- The invariant of every step (20_memory.md R60 to R62; that memory is in canonical form is the model's own, log entry 2): it is kept
from every state that has it. -/
def Obligations.StepKeepsInvariant : Prop := ∀ s t : State, s.Inv → step s = .next t → t.Inv

/-- The state after reset has the invariant; its values are the model's own choice (log entries 1, 2). -/
def Obligations.ResetHasInvariant : Prop := State.reset.Inv

/-- 70_reset_and_hazards.md R474; 60_exceptions.md R448: a run of n steps keeps the invariant; if it ends in a fault, calling again from the state it
ends in gives that fault; a safe run is safe at every length before. -/
def Obligations.RunsKeepInvariantAndRepeatFault : Prop :=
  ∀ (n : Nat) (s : State),
    (s.Inv → (runSteps Config.std n s).1.Inv) ∧
    (∀ f, (runSteps Config.std n s).2 = some f → step (runSteps Config.std n s).1 = .fault f) ∧
    (SafeRun n s → ∀ m, m ≤ n → SafeRun m s)
end

