-- ==== Sys2Proof/Laws/PerInstr.lean ====
section
/-! SUPPORT. The family `Parts`: an instruction taken apart and put together again is the same instruction (30_encoding.md R108 to R113), one
lemma for each constructor. -/

namespace Sys2Proof.Laws.Parts

/-- Putting the parts of an instruction together gives that instruction. -/
def Statement (i : Instr) : Prop := i.parts.build = some i

@[simp] theorem reg_of_num (r : Reg) : Reg.ofNum r.num = r := by cases r <;> rfl

@[simp] theorem reg8_of_num (r : Reg8) : Reg8.ofNum r.num = r := by cases r <;> rfl

@[simp] theorem rm_map (m : RM Reg) : (m.map Reg.num).map Reg.ofNum = m := by cases m <;> simp [RM.map]

@[simp] theorem rm_map8 (m : RM Reg8) : (m.map Reg8.num).map Reg8.ofNum = m := by cases m <;> simp [RM.map]

theorem addRm8R8 (p : Prefixes) (rm : RM Reg8) (r : Reg8) : Statement (.addRm8R8 p rm r) :=
  congrArg₂ (fun x y => some (Instr.addRm8R8 p x y)) (rm_map8 rm) (reg8_of_num r)

theorem addRmR (p : Prefixes) (rm : RM Reg) (r : Reg) : Statement (.addRmR p rm r) :=
  congrArg₂ (fun x y => some (Instr.addRmR p x y)) (rm_map rm) (reg_of_num r)

theorem addR8Rm8 (p : Prefixes) (r : Reg8) (rm : RM Reg8) : Statement (.addR8Rm8 p r rm) :=
  congrArg₂ (fun x y => some (Instr.addR8Rm8 p x y)) (reg8_of_num r) (rm_map8 rm)

theorem addRRm (p : Prefixes) (r : Reg) (rm : RM Reg) : Statement (.addRRm p r rm) :=
  congrArg₂ (fun x y => some (Instr.addRRm p x y)) (reg_of_num r) (rm_map rm)

theorem addAlImm8 (p : Prefixes) (v : Byte) : Statement (.addAlImm8 p v) := rfl

theorem addEaxImm (p : Prefixes) (v : ImmZ) : Statement (.addEaxImm p v) := by
  cases v <;> exact rfl

theorem addRm8Imm8 (p : Prefixes) (rm : RM Reg8) (v : Byte) : Statement (.addRm8Imm8 p rm v) :=
  congrArg (fun x => some (Instr.addRm8Imm8 p x v)) (rm_map8 rm)

theorem addRmImm (p : Prefixes) (rm : RM Reg) (v : ImmZ) : Statement (.addRmImm p rm v) := by
  cases v <;> exact congrArg (fun x => some (Instr.addRmImm p x _)) (rm_map rm)

theorem addRmImm8 (p : Prefixes) (rm : RM Reg) (v : Byte) : Statement (.addRmImm8 p rm v) :=
  congrArg (fun x => some (Instr.addRmImm8 p x v)) (rm_map rm)

theorem orRm8R8 (p : Prefixes) (rm : RM Reg8) (r : Reg8) : Statement (.orRm8R8 p rm r) :=
  congrArg₂ (fun x y => some (Instr.orRm8R8 p x y)) (rm_map8 rm) (reg8_of_num r)

theorem orRmR (p : Prefixes) (rm : RM Reg) (r : Reg) : Statement (.orRmR p rm r) :=
  congrArg₂ (fun x y => some (Instr.orRmR p x y)) (rm_map rm) (reg_of_num r)

theorem orR8Rm8 (p : Prefixes) (r : Reg8) (rm : RM Reg8) : Statement (.orR8Rm8 p r rm) :=
  congrArg₂ (fun x y => some (Instr.orR8Rm8 p x y)) (reg8_of_num r) (rm_map8 rm)

theorem orRRm (p : Prefixes) (r : Reg) (rm : RM Reg) : Statement (.orRRm p r rm) :=
  congrArg₂ (fun x y => some (Instr.orRRm p x y)) (reg_of_num r) (rm_map rm)

theorem orAlImm8 (p : Prefixes) (v : Byte) : Statement (.orAlImm8 p v) := rfl

theorem orEaxImm (p : Prefixes) (v : ImmZ) : Statement (.orEaxImm p v) := by
  cases v <;> exact rfl

theorem orRm8Imm8 (p : Prefixes) (rm : RM Reg8) (v : Byte) : Statement (.orRm8Imm8 p rm v) :=
  congrArg (fun x => some (Instr.orRm8Imm8 p x v)) (rm_map8 rm)

theorem orRmImm (p : Prefixes) (rm : RM Reg) (v : ImmZ) : Statement (.orRmImm p rm v) := by
  cases v <;> exact congrArg (fun x => some (Instr.orRmImm p x _)) (rm_map rm)

theorem orRmImm8 (p : Prefixes) (rm : RM Reg) (v : Byte) : Statement (.orRmImm8 p rm v) :=
  congrArg (fun x => some (Instr.orRmImm8 p x v)) (rm_map rm)

theorem adcRm8R8 (p : Prefixes) (rm : RM Reg8) (r : Reg8) : Statement (.adcRm8R8 p rm r) :=
  congrArg₂ (fun x y => some (Instr.adcRm8R8 p x y)) (rm_map8 rm) (reg8_of_num r)

theorem adcRmR (p : Prefixes) (rm : RM Reg) (r : Reg) : Statement (.adcRmR p rm r) :=
  congrArg₂ (fun x y => some (Instr.adcRmR p x y)) (rm_map rm) (reg_of_num r)

theorem adcR8Rm8 (p : Prefixes) (r : Reg8) (rm : RM Reg8) : Statement (.adcR8Rm8 p r rm) :=
  congrArg₂ (fun x y => some (Instr.adcR8Rm8 p x y)) (reg8_of_num r) (rm_map8 rm)

theorem adcRRm (p : Prefixes) (r : Reg) (rm : RM Reg) : Statement (.adcRRm p r rm) :=
  congrArg₂ (fun x y => some (Instr.adcRRm p x y)) (reg_of_num r) (rm_map rm)

theorem adcAlImm8 (p : Prefixes) (v : Byte) : Statement (.adcAlImm8 p v) := rfl

theorem adcEaxImm (p : Prefixes) (v : ImmZ) : Statement (.adcEaxImm p v) := by
  cases v <;> exact rfl

theorem adcRm8Imm8 (p : Prefixes) (rm : RM Reg8) (v : Byte) : Statement (.adcRm8Imm8 p rm v) :=
  congrArg (fun x => some (Instr.adcRm8Imm8 p x v)) (rm_map8 rm)

theorem adcRmImm (p : Prefixes) (rm : RM Reg) (v : ImmZ) : Statement (.adcRmImm p rm v) := by
  cases v <;> exact congrArg (fun x => some (Instr.adcRmImm p x _)) (rm_map rm)

theorem adcRmImm8 (p : Prefixes) (rm : RM Reg) (v : Byte) : Statement (.adcRmImm8 p rm v) :=
  congrArg (fun x => some (Instr.adcRmImm8 p x v)) (rm_map rm)

theorem sbbRm8R8 (p : Prefixes) (rm : RM Reg8) (r : Reg8) : Statement (.sbbRm8R8 p rm r) :=
  congrArg₂ (fun x y => some (Instr.sbbRm8R8 p x y)) (rm_map8 rm) (reg8_of_num r)

theorem sbbRmR (p : Prefixes) (rm : RM Reg) (r : Reg) : Statement (.sbbRmR p rm r) :=
  congrArg₂ (fun x y => some (Instr.sbbRmR p x y)) (rm_map rm) (reg_of_num r)

theorem sbbR8Rm8 (p : Prefixes) (r : Reg8) (rm : RM Reg8) : Statement (.sbbR8Rm8 p r rm) :=
  congrArg₂ (fun x y => some (Instr.sbbR8Rm8 p x y)) (reg8_of_num r) (rm_map8 rm)

theorem sbbRRm (p : Prefixes) (r : Reg) (rm : RM Reg) : Statement (.sbbRRm p r rm) :=
  congrArg₂ (fun x y => some (Instr.sbbRRm p x y)) (reg_of_num r) (rm_map rm)

theorem sbbAlImm8 (p : Prefixes) (v : Byte) : Statement (.sbbAlImm8 p v) := rfl

theorem sbbEaxImm (p : Prefixes) (v : ImmZ) : Statement (.sbbEaxImm p v) := by
  cases v <;> exact rfl

theorem sbbRm8Imm8 (p : Prefixes) (rm : RM Reg8) (v : Byte) : Statement (.sbbRm8Imm8 p rm v) :=
  congrArg (fun x => some (Instr.sbbRm8Imm8 p x v)) (rm_map8 rm)

theorem sbbRmImm (p : Prefixes) (rm : RM Reg) (v : ImmZ) : Statement (.sbbRmImm p rm v) := by
  cases v <;> exact congrArg (fun x => some (Instr.sbbRmImm p x _)) (rm_map rm)

theorem sbbRmImm8 (p : Prefixes) (rm : RM Reg) (v : Byte) : Statement (.sbbRmImm8 p rm v) :=
  congrArg (fun x => some (Instr.sbbRmImm8 p x v)) (rm_map rm)

theorem andRm8R8 (p : Prefixes) (rm : RM Reg8) (r : Reg8) : Statement (.andRm8R8 p rm r) :=
  congrArg₂ (fun x y => some (Instr.andRm8R8 p x y)) (rm_map8 rm) (reg8_of_num r)

theorem andRmR (p : Prefixes) (rm : RM Reg) (r : Reg) : Statement (.andRmR p rm r) :=
  congrArg₂ (fun x y => some (Instr.andRmR p x y)) (rm_map rm) (reg_of_num r)

theorem andR8Rm8 (p : Prefixes) (r : Reg8) (rm : RM Reg8) : Statement (.andR8Rm8 p r rm) :=
  congrArg₂ (fun x y => some (Instr.andR8Rm8 p x y)) (reg8_of_num r) (rm_map8 rm)

theorem andRRm (p : Prefixes) (r : Reg) (rm : RM Reg) : Statement (.andRRm p r rm) :=
  congrArg₂ (fun x y => some (Instr.andRRm p x y)) (reg_of_num r) (rm_map rm)

theorem andAlImm8 (p : Prefixes) (v : Byte) : Statement (.andAlImm8 p v) := rfl

theorem andEaxImm (p : Prefixes) (v : ImmZ) : Statement (.andEaxImm p v) := by
  cases v <;> exact rfl

theorem andRm8Imm8 (p : Prefixes) (rm : RM Reg8) (v : Byte) : Statement (.andRm8Imm8 p rm v) :=
  congrArg (fun x => some (Instr.andRm8Imm8 p x v)) (rm_map8 rm)

theorem andRmImm (p : Prefixes) (rm : RM Reg) (v : ImmZ) : Statement (.andRmImm p rm v) := by
  cases v <;> exact congrArg (fun x => some (Instr.andRmImm p x _)) (rm_map rm)

theorem andRmImm8 (p : Prefixes) (rm : RM Reg) (v : Byte) : Statement (.andRmImm8 p rm v) :=
  congrArg (fun x => some (Instr.andRmImm8 p x v)) (rm_map rm)

theorem subRm8R8 (p : Prefixes) (rm : RM Reg8) (r : Reg8) : Statement (.subRm8R8 p rm r) :=
  congrArg₂ (fun x y => some (Instr.subRm8R8 p x y)) (rm_map8 rm) (reg8_of_num r)

theorem subRmR (p : Prefixes) (rm : RM Reg) (r : Reg) : Statement (.subRmR p rm r) :=
  congrArg₂ (fun x y => some (Instr.subRmR p x y)) (rm_map rm) (reg_of_num r)

theorem subR8Rm8 (p : Prefixes) (r : Reg8) (rm : RM Reg8) : Statement (.subR8Rm8 p r rm) :=
  congrArg₂ (fun x y => some (Instr.subR8Rm8 p x y)) (reg8_of_num r) (rm_map8 rm)

theorem subRRm (p : Prefixes) (r : Reg) (rm : RM Reg) : Statement (.subRRm p r rm) :=
  congrArg₂ (fun x y => some (Instr.subRRm p x y)) (reg_of_num r) (rm_map rm)

theorem subAlImm8 (p : Prefixes) (v : Byte) : Statement (.subAlImm8 p v) := rfl

theorem subEaxImm (p : Prefixes) (v : ImmZ) : Statement (.subEaxImm p v) := by
  cases v <;> exact rfl

theorem subRm8Imm8 (p : Prefixes) (rm : RM Reg8) (v : Byte) : Statement (.subRm8Imm8 p rm v) :=
  congrArg (fun x => some (Instr.subRm8Imm8 p x v)) (rm_map8 rm)

theorem subRmImm (p : Prefixes) (rm : RM Reg) (v : ImmZ) : Statement (.subRmImm p rm v) := by
  cases v <;> exact congrArg (fun x => some (Instr.subRmImm p x _)) (rm_map rm)

theorem subRmImm8 (p : Prefixes) (rm : RM Reg) (v : Byte) : Statement (.subRmImm8 p rm v) :=
  congrArg (fun x => some (Instr.subRmImm8 p x v)) (rm_map rm)

theorem xorRm8R8 (p : Prefixes) (rm : RM Reg8) (r : Reg8) : Statement (.xorRm8R8 p rm r) :=
  congrArg₂ (fun x y => some (Instr.xorRm8R8 p x y)) (rm_map8 rm) (reg8_of_num r)

theorem xorRmR (p : Prefixes) (rm : RM Reg) (r : Reg) : Statement (.xorRmR p rm r) :=
  congrArg₂ (fun x y => some (Instr.xorRmR p x y)) (rm_map rm) (reg_of_num r)

theorem xorR8Rm8 (p : Prefixes) (r : Reg8) (rm : RM Reg8) : Statement (.xorR8Rm8 p r rm) :=
  congrArg₂ (fun x y => some (Instr.xorR8Rm8 p x y)) (reg8_of_num r) (rm_map8 rm)

theorem xorRRm (p : Prefixes) (r : Reg) (rm : RM Reg) : Statement (.xorRRm p r rm) :=
  congrArg₂ (fun x y => some (Instr.xorRRm p x y)) (reg_of_num r) (rm_map rm)

theorem xorAlImm8 (p : Prefixes) (v : Byte) : Statement (.xorAlImm8 p v) := rfl

theorem xorEaxImm (p : Prefixes) (v : ImmZ) : Statement (.xorEaxImm p v) := by
  cases v <;> exact rfl

theorem xorRm8Imm8 (p : Prefixes) (rm : RM Reg8) (v : Byte) : Statement (.xorRm8Imm8 p rm v) :=
  congrArg (fun x => some (Instr.xorRm8Imm8 p x v)) (rm_map8 rm)

theorem xorRmImm (p : Prefixes) (rm : RM Reg) (v : ImmZ) : Statement (.xorRmImm p rm v) := by
  cases v <;> exact congrArg (fun x => some (Instr.xorRmImm p x _)) (rm_map rm)

theorem xorRmImm8 (p : Prefixes) (rm : RM Reg) (v : Byte) : Statement (.xorRmImm8 p rm v) :=
  congrArg (fun x => some (Instr.xorRmImm8 p x v)) (rm_map rm)

theorem cmpRm8R8 (p : Prefixes) (rm : RM Reg8) (r : Reg8) : Statement (.cmpRm8R8 p rm r) :=
  congrArg₂ (fun x y => some (Instr.cmpRm8R8 p x y)) (rm_map8 rm) (reg8_of_num r)

theorem cmpRmR (p : Prefixes) (rm : RM Reg) (r : Reg) : Statement (.cmpRmR p rm r) :=
  congrArg₂ (fun x y => some (Instr.cmpRmR p x y)) (rm_map rm) (reg_of_num r)

theorem cmpR8Rm8 (p : Prefixes) (r : Reg8) (rm : RM Reg8) : Statement (.cmpR8Rm8 p r rm) :=
  congrArg₂ (fun x y => some (Instr.cmpR8Rm8 p x y)) (reg8_of_num r) (rm_map8 rm)

theorem cmpRRm (p : Prefixes) (r : Reg) (rm : RM Reg) : Statement (.cmpRRm p r rm) :=
  congrArg₂ (fun x y => some (Instr.cmpRRm p x y)) (reg_of_num r) (rm_map rm)

theorem cmpAlImm8 (p : Prefixes) (v : Byte) : Statement (.cmpAlImm8 p v) := rfl

theorem cmpEaxImm (p : Prefixes) (v : ImmZ) : Statement (.cmpEaxImm p v) := by
  cases v <;> exact rfl

theorem cmpRm8Imm8 (p : Prefixes) (rm : RM Reg8) (v : Byte) : Statement (.cmpRm8Imm8 p rm v) :=
  congrArg (fun x => some (Instr.cmpRm8Imm8 p x v)) (rm_map8 rm)

theorem cmpRmImm (p : Prefixes) (rm : RM Reg) (v : ImmZ) : Statement (.cmpRmImm p rm v) := by
  cases v <;> exact congrArg (fun x => some (Instr.cmpRmImm p x _)) (rm_map rm)

theorem cmpRmImm8 (p : Prefixes) (rm : RM Reg) (v : Byte) : Statement (.cmpRmImm8 p rm v) :=
  congrArg (fun x => some (Instr.cmpRmImm8 p x v)) (rm_map rm)

theorem incR (p : Prefixes) (r : Reg) : Statement (.incR p r) :=
  congrArg (fun x => some (Instr.incR p x)) (reg_of_num r)

theorem decR (p : Prefixes) (r : Reg) : Statement (.decR p r) :=
  congrArg (fun x => some (Instr.decR p x)) (reg_of_num r)

theorem incRm8 (p : Prefixes) (rm : RM Reg8) : Statement (.incRm8 p rm) :=
  congrArg (fun x => some (Instr.incRm8 p x)) (rm_map8 rm)

theorem decRm8 (p : Prefixes) (rm : RM Reg8) : Statement (.decRm8 p rm) :=
  congrArg (fun x => some (Instr.decRm8 p x)) (rm_map8 rm)

theorem incRm (p : Prefixes) (rm : RM Reg) : Statement (.incRm p rm) :=
  congrArg (fun x => some (Instr.incRm p x)) (rm_map rm)

theorem decRm (p : Prefixes) (rm : RM Reg) : Statement (.decRm p rm) :=
  congrArg (fun x => some (Instr.decRm p x)) (rm_map rm)

theorem testRm8Imm8 (p : Prefixes) (rm : RM Reg8) (v : Byte) : Statement (.testRm8Imm8 p rm v) :=
  congrArg (fun x => some (Instr.testRm8Imm8 p x v)) (rm_map8 rm)

theorem notRm8 (p : Prefixes) (rm : RM Reg8) : Statement (.notRm8 p rm) :=
  congrArg (fun x => some (Instr.notRm8 p x)) (rm_map8 rm)

theorem negRm8 (p : Prefixes) (rm : RM Reg8) : Statement (.negRm8 p rm) :=
  congrArg (fun x => some (Instr.negRm8 p x)) (rm_map8 rm)

theorem mulRm8 (p : Prefixes) (rm : RM Reg8) : Statement (.mulRm8 p rm) :=
  congrArg (fun x => some (Instr.mulRm8 p x)) (rm_map8 rm)

theorem imulRm8 (p : Prefixes) (rm : RM Reg8) : Statement (.imulRm8 p rm) :=
  congrArg (fun x => some (Instr.imulRm8 p x)) (rm_map8 rm)

theorem divRm8 (p : Prefixes) (rm : RM Reg8) : Statement (.divRm8 p rm) :=
  congrArg (fun x => some (Instr.divRm8 p x)) (rm_map8 rm)

theorem idivRm8 (p : Prefixes) (rm : RM Reg8) : Statement (.idivRm8 p rm) :=
  congrArg (fun x => some (Instr.idivRm8 p x)) (rm_map8 rm)

theorem testRmImm (p : Prefixes) (rm : RM Reg) (v : ImmZ) : Statement (.testRmImm p rm v) := by
  cases v <;> exact congrArg (fun x => some (Instr.testRmImm p x _)) (rm_map rm)

theorem notRm (p : Prefixes) (rm : RM Reg) : Statement (.notRm p rm) :=
  congrArg (fun x => some (Instr.notRm p x)) (rm_map rm)

theorem negRm (p : Prefixes) (rm : RM Reg) : Statement (.negRm p rm) :=
  congrArg (fun x => some (Instr.negRm p x)) (rm_map rm)

theorem mulRm (p : Prefixes) (rm : RM Reg) : Statement (.mulRm p rm) :=
  congrArg (fun x => some (Instr.mulRm p x)) (rm_map rm)

theorem imulRm (p : Prefixes) (rm : RM Reg) : Statement (.imulRm p rm) :=
  congrArg (fun x => some (Instr.imulRm p x)) (rm_map rm)

theorem divRm (p : Prefixes) (rm : RM Reg) : Statement (.divRm p rm) :=
  congrArg (fun x => some (Instr.divRm p x)) (rm_map rm)

theorem idivRm (p : Prefixes) (rm : RM Reg) : Statement (.idivRm p rm) :=
  congrArg (fun x => some (Instr.idivRm p x)) (rm_map rm)

theorem imulRRm (p : Prefixes) (r : Reg) (rm : RM Reg) : Statement (.imulRRm p r rm) :=
  congrArg₂ (fun x y => some (Instr.imulRRm p x y)) (reg_of_num r) (rm_map rm)

theorem imulRRmImm (p : Prefixes) (r : Reg) (rm : RM Reg) (v : ImmZ) : Statement (.imulRRmImm p r rm v) := by
  cases v <;> exact congrArg₂ (fun x y => some (Instr.imulRRmImm p x y _)) (reg_of_num r) (rm_map rm)

theorem imulRRmImm8 (p : Prefixes) (r : Reg) (rm : RM Reg) (v : Byte) : Statement (.imulRRmImm8 p r rm v) :=
  congrArg₂ (fun x y => some (Instr.imulRRmImm8 p x y v)) (reg_of_num r) (rm_map rm)

theorem testRm8R8 (p : Prefixes) (rm : RM Reg8) (r : Reg8) : Statement (.testRm8R8 p rm r) :=
  congrArg₂ (fun x y => some (Instr.testRm8R8 p x y)) (rm_map8 rm) (reg8_of_num r)

theorem testRmR (p : Prefixes) (rm : RM Reg) (r : Reg) : Statement (.testRmR p rm r) :=
  congrArg₂ (fun x y => some (Instr.testRmR p x y)) (rm_map rm) (reg_of_num r)

theorem testAlImm8 (p : Prefixes) (v : Byte) : Statement (.testAlImm8 p v) := rfl

theorem testEaxImm (p : Prefixes) (v : ImmZ) : Statement (.testEaxImm p v) := by
  cases v <;> exact rfl

theorem movRm8R8 (p : Prefixes) (rm : RM Reg8) (r : Reg8) : Statement (.movRm8R8 p rm r) :=
  congrArg₂ (fun x y => some (Instr.movRm8R8 p x y)) (rm_map8 rm) (reg8_of_num r)

theorem movRmR (p : Prefixes) (rm : RM Reg) (r : Reg) : Statement (.movRmR p rm r) :=
  congrArg₂ (fun x y => some (Instr.movRmR p x y)) (rm_map rm) (reg_of_num r)

theorem movR8Rm8 (p : Prefixes) (r : Reg8) (rm : RM Reg8) : Statement (.movR8Rm8 p r rm) :=
  congrArg₂ (fun x y => some (Instr.movR8Rm8 p x y)) (reg8_of_num r) (rm_map8 rm)

theorem movRRm (p : Prefixes) (r : Reg) (rm : RM Reg) : Statement (.movRRm p r rm) :=
  congrArg₂ (fun x y => some (Instr.movRRm p x y)) (reg_of_num r) (rm_map rm)

theorem movR8Imm8 (p : Prefixes) (r : Reg8) (v : Byte) : Statement (.movR8Imm8 p r v) :=
  congrArg (fun x => some (Instr.movR8Imm8 p x v)) (reg8_of_num r)

theorem movRImm (p : Prefixes) (r : Reg) (v : ImmZ) : Statement (.movRImm p r v) := by
  cases v <;> exact congrArg (fun x => some (Instr.movRImm p x _)) (reg_of_num r)

theorem movRm8Imm8 (p : Prefixes) (rm : RM Reg8) (v : Byte) : Statement (.movRm8Imm8 p rm v) :=
  congrArg (fun x => some (Instr.movRm8Imm8 p x v)) (rm_map8 rm)

theorem movRmImm (p : Prefixes) (rm : RM Reg) (v : ImmZ) : Statement (.movRmImm p rm v) := by
  cases v <;> exact congrArg (fun x => some (Instr.movRmImm p x _)) (rm_map rm)

theorem movAlMoffs (p : Prefixes) (d : Word) : Statement (.movAlMoffs p d) := rfl

theorem movEaxMoffs (p : Prefixes) (d : Word) : Statement (.movEaxMoffs p d) := rfl

theorem movMoffsAl (p : Prefixes) (d : Word) : Statement (.movMoffsAl p d) := rfl

theorem movMoffsEax (p : Prefixes) (d : Word) : Statement (.movMoffsEax p d) := rfl

theorem leaRM (p : Prefixes) (r : Reg) (m : Mem) : Statement (.leaRM p r m) :=
  congrArg (fun x => some (Instr.leaRM p x m)) (reg_of_num r)

theorem movzxRRm8 (p : Prefixes) (r : Reg) (rm : RM Reg8) : Statement (.movzxRRm8 p r rm) :=
  congrArg₂ (fun x y => some (Instr.movzxRRm8 p x y)) (reg_of_num r) (rm_map8 rm)

theorem movzxRRm16 (p : Prefixes) (r : Reg) (rm : RM Reg) : Statement (.movzxRRm16 p r rm) :=
  congrArg₂ (fun x y => some (Instr.movzxRRm16 p x y)) (reg_of_num r) (rm_map rm)

theorem movsxRRm8 (p : Prefixes) (r : Reg) (rm : RM Reg8) : Statement (.movsxRRm8 p r rm) :=
  congrArg₂ (fun x y => some (Instr.movsxRRm8 p x y)) (reg_of_num r) (rm_map8 rm)

theorem movsxRRm16 (p : Prefixes) (r : Reg) (rm : RM Reg) : Statement (.movsxRRm16 p r rm) :=
  congrArg₂ (fun x y => some (Instr.movsxRRm16 p x y)) (reg_of_num r) (rm_map rm)

theorem cbw (p : Prefixes) : Statement (.cbw p) := rfl

theorem cwde (p : Prefixes) : Statement (.cwde p) := rfl

theorem cwd (p : Prefixes) : Statement (.cwd p) := rfl

theorem cdq (p : Prefixes) : Statement (.cdq p) := rfl

theorem cmpsb (p : Prefixes) : Statement (.cmpsb p) := rfl

theorem cmpsw (p : Prefixes) : Statement (.cmpsw p) := rfl

theorem cmpsd (p : Prefixes) : Statement (.cmpsd p) := rfl

theorem clc (p : Prefixes) : Statement (.clc p) := rfl

theorem stc (p : Prefixes) : Statement (.stc p) := rfl

theorem cmc (p : Prefixes) : Statement (.cmc p) := rfl

theorem cld (p : Prefixes) : Statement (.cld p) := rfl

theorem std (p : Prefixes) : Statement (.std p) := rfl

theorem aamImm8 (p : Prefixes) (v : Byte) : Statement (.aamImm8 p v) := rfl

theorem aadImm8 (p : Prefixes) (v : Byte) : Statement (.aadImm8 p v) := rfl

theorem rolRm8Imm8 (p : Prefixes) (rm : RM Reg8) (v : Byte) : Statement (.rolRm8Imm8 p rm v) :=
  congrArg (fun x => some (Instr.rolRm8Imm8 p x v)) (rm_map8 rm)

theorem rolRmImm8 (p : Prefixes) (rm : RM Reg) (v : Byte) : Statement (.rolRmImm8 p rm v) :=
  congrArg (fun x => some (Instr.rolRmImm8 p x v)) (rm_map rm)

theorem rolRm8One (p : Prefixes) (rm : RM Reg8) : Statement (.rolRm8One p rm) :=
  congrArg (fun x => some (Instr.rolRm8One p x)) (rm_map8 rm)

theorem rolRmOne (p : Prefixes) (rm : RM Reg) : Statement (.rolRmOne p rm) :=
  congrArg (fun x => some (Instr.rolRmOne p x)) (rm_map rm)

theorem rolRm8Cl (p : Prefixes) (rm : RM Reg8) : Statement (.rolRm8Cl p rm) :=
  congrArg (fun x => some (Instr.rolRm8Cl p x)) (rm_map8 rm)

theorem rolRmCl (p : Prefixes) (rm : RM Reg) : Statement (.rolRmCl p rm) :=
  congrArg (fun x => some (Instr.rolRmCl p x)) (rm_map rm)

theorem rorRm8Imm8 (p : Prefixes) (rm : RM Reg8) (v : Byte) : Statement (.rorRm8Imm8 p rm v) :=
  congrArg (fun x => some (Instr.rorRm8Imm8 p x v)) (rm_map8 rm)

theorem rorRmImm8 (p : Prefixes) (rm : RM Reg) (v : Byte) : Statement (.rorRmImm8 p rm v) :=
  congrArg (fun x => some (Instr.rorRmImm8 p x v)) (rm_map rm)

theorem rorRm8One (p : Prefixes) (rm : RM Reg8) : Statement (.rorRm8One p rm) :=
  congrArg (fun x => some (Instr.rorRm8One p x)) (rm_map8 rm)

theorem rorRmOne (p : Prefixes) (rm : RM Reg) : Statement (.rorRmOne p rm) :=
  congrArg (fun x => some (Instr.rorRmOne p x)) (rm_map rm)

theorem rorRm8Cl (p : Prefixes) (rm : RM Reg8) : Statement (.rorRm8Cl p rm) :=
  congrArg (fun x => some (Instr.rorRm8Cl p x)) (rm_map8 rm)

theorem rorRmCl (p : Prefixes) (rm : RM Reg) : Statement (.rorRmCl p rm) :=
  congrArg (fun x => some (Instr.rorRmCl p x)) (rm_map rm)

theorem rclRm8Imm8 (p : Prefixes) (rm : RM Reg8) (v : Byte) : Statement (.rclRm8Imm8 p rm v) :=
  congrArg (fun x => some (Instr.rclRm8Imm8 p x v)) (rm_map8 rm)

theorem rclRmImm8 (p : Prefixes) (rm : RM Reg) (v : Byte) : Statement (.rclRmImm8 p rm v) :=
  congrArg (fun x => some (Instr.rclRmImm8 p x v)) (rm_map rm)

theorem rclRm8One (p : Prefixes) (rm : RM Reg8) : Statement (.rclRm8One p rm) :=
  congrArg (fun x => some (Instr.rclRm8One p x)) (rm_map8 rm)

theorem rclRmOne (p : Prefixes) (rm : RM Reg) : Statement (.rclRmOne p rm) :=
  congrArg (fun x => some (Instr.rclRmOne p x)) (rm_map rm)

theorem rclRm8Cl (p : Prefixes) (rm : RM Reg8) : Statement (.rclRm8Cl p rm) :=
  congrArg (fun x => some (Instr.rclRm8Cl p x)) (rm_map8 rm)

theorem rclRmCl (p : Prefixes) (rm : RM Reg) : Statement (.rclRmCl p rm) :=
  congrArg (fun x => some (Instr.rclRmCl p x)) (rm_map rm)

theorem rcrRm8Imm8 (p : Prefixes) (rm : RM Reg8) (v : Byte) : Statement (.rcrRm8Imm8 p rm v) :=
  congrArg (fun x => some (Instr.rcrRm8Imm8 p x v)) (rm_map8 rm)

theorem rcrRmImm8 (p : Prefixes) (rm : RM Reg) (v : Byte) : Statement (.rcrRmImm8 p rm v) :=
  congrArg (fun x => some (Instr.rcrRmImm8 p x v)) (rm_map rm)

theorem rcrRm8One (p : Prefixes) (rm : RM Reg8) : Statement (.rcrRm8One p rm) :=
  congrArg (fun x => some (Instr.rcrRm8One p x)) (rm_map8 rm)

theorem rcrRmOne (p : Prefixes) (rm : RM Reg) : Statement (.rcrRmOne p rm) :=
  congrArg (fun x => some (Instr.rcrRmOne p x)) (rm_map rm)

theorem rcrRm8Cl (p : Prefixes) (rm : RM Reg8) : Statement (.rcrRm8Cl p rm) :=
  congrArg (fun x => some (Instr.rcrRm8Cl p x)) (rm_map8 rm)

theorem rcrRmCl (p : Prefixes) (rm : RM Reg) : Statement (.rcrRmCl p rm) :=
  congrArg (fun x => some (Instr.rcrRmCl p x)) (rm_map rm)

theorem shlRm8Imm8 (p : Prefixes) (rm : RM Reg8) (v : Byte) : Statement (.shlRm8Imm8 p rm v) :=
  congrArg (fun x => some (Instr.shlRm8Imm8 p x v)) (rm_map8 rm)

theorem shlRmImm8 (p : Prefixes) (rm : RM Reg) (v : Byte) : Statement (.shlRmImm8 p rm v) :=
  congrArg (fun x => some (Instr.shlRmImm8 p x v)) (rm_map rm)

theorem shlRm8One (p : Prefixes) (rm : RM Reg8) : Statement (.shlRm8One p rm) :=
  congrArg (fun x => some (Instr.shlRm8One p x)) (rm_map8 rm)

theorem shlRmOne (p : Prefixes) (rm : RM Reg) : Statement (.shlRmOne p rm) :=
  congrArg (fun x => some (Instr.shlRmOne p x)) (rm_map rm)

theorem shlRm8Cl (p : Prefixes) (rm : RM Reg8) : Statement (.shlRm8Cl p rm) :=
  congrArg (fun x => some (Instr.shlRm8Cl p x)) (rm_map8 rm)

theorem shlRmCl (p : Prefixes) (rm : RM Reg) : Statement (.shlRmCl p rm) :=
  congrArg (fun x => some (Instr.shlRmCl p x)) (rm_map rm)

theorem shrRm8Imm8 (p : Prefixes) (rm : RM Reg8) (v : Byte) : Statement (.shrRm8Imm8 p rm v) :=
  congrArg (fun x => some (Instr.shrRm8Imm8 p x v)) (rm_map8 rm)

theorem shrRmImm8 (p : Prefixes) (rm : RM Reg) (v : Byte) : Statement (.shrRmImm8 p rm v) :=
  congrArg (fun x => some (Instr.shrRmImm8 p x v)) (rm_map rm)

theorem shrRm8One (p : Prefixes) (rm : RM Reg8) : Statement (.shrRm8One p rm) :=
  congrArg (fun x => some (Instr.shrRm8One p x)) (rm_map8 rm)

theorem shrRmOne (p : Prefixes) (rm : RM Reg) : Statement (.shrRmOne p rm) :=
  congrArg (fun x => some (Instr.shrRmOne p x)) (rm_map rm)

theorem shrRm8Cl (p : Prefixes) (rm : RM Reg8) : Statement (.shrRm8Cl p rm) :=
  congrArg (fun x => some (Instr.shrRm8Cl p x)) (rm_map8 rm)

theorem shrRmCl (p : Prefixes) (rm : RM Reg) : Statement (.shrRmCl p rm) :=
  congrArg (fun x => some (Instr.shrRmCl p x)) (rm_map rm)

theorem sarRm8Imm8 (p : Prefixes) (rm : RM Reg8) (v : Byte) : Statement (.sarRm8Imm8 p rm v) :=
  congrArg (fun x => some (Instr.sarRm8Imm8 p x v)) (rm_map8 rm)

theorem sarRmImm8 (p : Prefixes) (rm : RM Reg) (v : Byte) : Statement (.sarRmImm8 p rm v) :=
  congrArg (fun x => some (Instr.sarRmImm8 p x v)) (rm_map rm)

theorem sarRm8One (p : Prefixes) (rm : RM Reg8) : Statement (.sarRm8One p rm) :=
  congrArg (fun x => some (Instr.sarRm8One p x)) (rm_map8 rm)

theorem sarRmOne (p : Prefixes) (rm : RM Reg) : Statement (.sarRmOne p rm) :=
  congrArg (fun x => some (Instr.sarRmOne p x)) (rm_map rm)

theorem sarRm8Cl (p : Prefixes) (rm : RM Reg8) : Statement (.sarRm8Cl p rm) :=
  congrArg (fun x => some (Instr.sarRm8Cl p x)) (rm_map8 rm)

theorem sarRmCl (p : Prefixes) (rm : RM Reg) : Statement (.sarRmCl p rm) :=
  congrArg (fun x => some (Instr.sarRmCl p x)) (rm_map rm)

theorem callRel32 (p : Prefixes) (d : Word) : Statement (.callRel32 p d) := rfl

theorem callRm32 (p : Prefixes) (rm : RM Reg) : Statement (.callRm32 p rm) :=
  congrArg (fun x => some (Instr.callRm32 p x)) (rm_map rm)

theorem ret (p : Prefixes) : Statement (.ret p) := rfl

theorem retImm16 (p : Prefixes) (v : BitVec 16) : Statement (.retImm16 p v) := rfl

theorem jmpRel8 (p : Prefixes) (d : Byte) : Statement (.jmpRel8 p d) := rfl

theorem jmpRel32 (p : Prefixes) (d : Word) : Statement (.jmpRel32 p d) := rfl

theorem jmpRm32 (p : Prefixes) (rm : RM Reg) : Statement (.jmpRm32 p rm) :=
  congrArg (fun x => some (Instr.jmpRm32 p x)) (rm_map rm)

theorem joRel8 (p : Prefixes) (d : Byte) : Statement (.joRel8 p d) := rfl

theorem joRel32 (p : Prefixes) (d : Word) : Statement (.joRel32 p d) := rfl

theorem jnoRel8 (p : Prefixes) (d : Byte) : Statement (.jnoRel8 p d) := rfl

theorem jnoRel32 (p : Prefixes) (d : Word) : Statement (.jnoRel32 p d) := rfl

theorem jbRel8 (p : Prefixes) (d : Byte) : Statement (.jbRel8 p d) := rfl

theorem jbRel32 (p : Prefixes) (d : Word) : Statement (.jbRel32 p d) := rfl

theorem jaeRel8 (p : Prefixes) (d : Byte) : Statement (.jaeRel8 p d) := rfl

theorem jaeRel32 (p : Prefixes) (d : Word) : Statement (.jaeRel32 p d) := rfl

theorem jeRel8 (p : Prefixes) (d : Byte) : Statement (.jeRel8 p d) := rfl

theorem jeRel32 (p : Prefixes) (d : Word) : Statement (.jeRel32 p d) := rfl

theorem jneRel8 (p : Prefixes) (d : Byte) : Statement (.jneRel8 p d) := rfl

theorem jneRel32 (p : Prefixes) (d : Word) : Statement (.jneRel32 p d) := rfl

theorem jbeRel8 (p : Prefixes) (d : Byte) : Statement (.jbeRel8 p d) := rfl

theorem jbeRel32 (p : Prefixes) (d : Word) : Statement (.jbeRel32 p d) := rfl

theorem jaRel8 (p : Prefixes) (d : Byte) : Statement (.jaRel8 p d) := rfl

theorem jaRel32 (p : Prefixes) (d : Word) : Statement (.jaRel32 p d) := rfl

theorem jsRel8 (p : Prefixes) (d : Byte) : Statement (.jsRel8 p d) := rfl

theorem jsRel32 (p : Prefixes) (d : Word) : Statement (.jsRel32 p d) := rfl

theorem jnsRel8 (p : Prefixes) (d : Byte) : Statement (.jnsRel8 p d) := rfl

theorem jnsRel32 (p : Prefixes) (d : Word) : Statement (.jnsRel32 p d) := rfl

theorem jpRel8 (p : Prefixes) (d : Byte) : Statement (.jpRel8 p d) := rfl

theorem jpRel32 (p : Prefixes) (d : Word) : Statement (.jpRel32 p d) := rfl

theorem jnpRel8 (p : Prefixes) (d : Byte) : Statement (.jnpRel8 p d) := rfl

theorem jnpRel32 (p : Prefixes) (d : Word) : Statement (.jnpRel32 p d) := rfl

theorem jlRel8 (p : Prefixes) (d : Byte) : Statement (.jlRel8 p d) := rfl

theorem jlRel32 (p : Prefixes) (d : Word) : Statement (.jlRel32 p d) := rfl

theorem jgeRel8 (p : Prefixes) (d : Byte) : Statement (.jgeRel8 p d) := rfl

theorem jgeRel32 (p : Prefixes) (d : Word) : Statement (.jgeRel32 p d) := rfl

theorem jleRel8 (p : Prefixes) (d : Byte) : Statement (.jleRel8 p d) := rfl

theorem jleRel32 (p : Prefixes) (d : Word) : Statement (.jleRel32 p d) := rfl

theorem jgRel8 (p : Prefixes) (d : Byte) : Statement (.jgRel8 p d) := rfl

theorem jgRel32 (p : Prefixes) (d : Word) : Statement (.jgRel32 p d) := rfl

theorem cmovoRRm (p : Prefixes) (r : Reg) (rm : RM Reg) : Statement (.cmovoRRm p r rm) :=
  congrArg₂ (fun x y => some (Instr.cmovoRRm p x y)) (reg_of_num r) (rm_map rm)

theorem cmovnoRRm (p : Prefixes) (r : Reg) (rm : RM Reg) : Statement (.cmovnoRRm p r rm) :=
  congrArg₂ (fun x y => some (Instr.cmovnoRRm p x y)) (reg_of_num r) (rm_map rm)

theorem cmovbRRm (p : Prefixes) (r : Reg) (rm : RM Reg) : Statement (.cmovbRRm p r rm) :=
  congrArg₂ (fun x y => some (Instr.cmovbRRm p x y)) (reg_of_num r) (rm_map rm)

theorem cmovaeRRm (p : Prefixes) (r : Reg) (rm : RM Reg) : Statement (.cmovaeRRm p r rm) :=
  congrArg₂ (fun x y => some (Instr.cmovaeRRm p x y)) (reg_of_num r) (rm_map rm)

theorem cmoveRRm (p : Prefixes) (r : Reg) (rm : RM Reg) : Statement (.cmoveRRm p r rm) :=
  congrArg₂ (fun x y => some (Instr.cmoveRRm p x y)) (reg_of_num r) (rm_map rm)

theorem cmovneRRm (p : Prefixes) (r : Reg) (rm : RM Reg) : Statement (.cmovneRRm p r rm) :=
  congrArg₂ (fun x y => some (Instr.cmovneRRm p x y)) (reg_of_num r) (rm_map rm)

theorem cmovbeRRm (p : Prefixes) (r : Reg) (rm : RM Reg) : Statement (.cmovbeRRm p r rm) :=
  congrArg₂ (fun x y => some (Instr.cmovbeRRm p x y)) (reg_of_num r) (rm_map rm)

theorem cmovaRRm (p : Prefixes) (r : Reg) (rm : RM Reg) : Statement (.cmovaRRm p r rm) :=
  congrArg₂ (fun x y => some (Instr.cmovaRRm p x y)) (reg_of_num r) (rm_map rm)

theorem cmovsRRm (p : Prefixes) (r : Reg) (rm : RM Reg) : Statement (.cmovsRRm p r rm) :=
  congrArg₂ (fun x y => some (Instr.cmovsRRm p x y)) (reg_of_num r) (rm_map rm)

theorem cmovnsRRm (p : Prefixes) (r : Reg) (rm : RM Reg) : Statement (.cmovnsRRm p r rm) :=
  congrArg₂ (fun x y => some (Instr.cmovnsRRm p x y)) (reg_of_num r) (rm_map rm)

theorem cmovpRRm (p : Prefixes) (r : Reg) (rm : RM Reg) : Statement (.cmovpRRm p r rm) :=
  congrArg₂ (fun x y => some (Instr.cmovpRRm p x y)) (reg_of_num r) (rm_map rm)

theorem cmovnpRRm (p : Prefixes) (r : Reg) (rm : RM Reg) : Statement (.cmovnpRRm p r rm) :=
  congrArg₂ (fun x y => some (Instr.cmovnpRRm p x y)) (reg_of_num r) (rm_map rm)

theorem cmovlRRm (p : Prefixes) (r : Reg) (rm : RM Reg) : Statement (.cmovlRRm p r rm) :=
  congrArg₂ (fun x y => some (Instr.cmovlRRm p x y)) (reg_of_num r) (rm_map rm)

theorem cmovgeRRm (p : Prefixes) (r : Reg) (rm : RM Reg) : Statement (.cmovgeRRm p r rm) :=
  congrArg₂ (fun x y => some (Instr.cmovgeRRm p x y)) (reg_of_num r) (rm_map rm)

theorem cmovleRRm (p : Prefixes) (r : Reg) (rm : RM Reg) : Statement (.cmovleRRm p r rm) :=
  congrArg₂ (fun x y => some (Instr.cmovleRRm p x y)) (reg_of_num r) (rm_map rm)

theorem cmovgRRm (p : Prefixes) (r : Reg) (rm : RM Reg) : Statement (.cmovgRRm p r rm) :=
  congrArg₂ (fun x y => some (Instr.cmovgRRm p x y)) (reg_of_num r) (rm_map rm)

theorem bsfRRm (p : Prefixes) (r : Reg) (rm : RM Reg) : Statement (.bsfRRm p r rm) :=
  congrArg₂ (fun x y => some (Instr.bsfRRm p x y)) (reg_of_num r) (rm_map rm)

theorem bsrRRm (p : Prefixes) (r : Reg) (rm : RM Reg) : Statement (.bsrRRm p r rm) :=
  congrArg₂ (fun x y => some (Instr.bsrRRm p x y)) (reg_of_num r) (rm_map rm)

theorem bswapR32 (p : Prefixes) (r : Reg) : Statement (.bswapR32 p r) :=
  congrArg (fun x => some (Instr.bswapR32 p x)) (reg_of_num r)

theorem btRmR (p : Prefixes) (rm : RM Reg) (r : Reg) : Statement (.btRmR p rm r) :=
  congrArg₂ (fun x y => some (Instr.btRmR p x y)) (rm_map rm) (reg_of_num r)

theorem btRmImm8 (p : Prefixes) (rm : RM Reg) (v : Byte) : Statement (.btRmImm8 p rm v) :=
  congrArg (fun x => some (Instr.btRmImm8 p x v)) (rm_map rm)

theorem btsRmR (p : Prefixes) (rm : RM Reg) (r : Reg) : Statement (.btsRmR p rm r) :=
  congrArg₂ (fun x y => some (Instr.btsRmR p x y)) (rm_map rm) (reg_of_num r)

theorem btsRmImm8 (p : Prefixes) (rm : RM Reg) (v : Byte) : Statement (.btsRmImm8 p rm v) :=
  congrArg (fun x => some (Instr.btsRmImm8 p x v)) (rm_map rm)

theorem btrRmR (p : Prefixes) (rm : RM Reg) (r : Reg) : Statement (.btrRmR p rm r) :=
  congrArg₂ (fun x y => some (Instr.btrRmR p x y)) (rm_map rm) (reg_of_num r)

theorem btrRmImm8 (p : Prefixes) (rm : RM Reg) (v : Byte) : Statement (.btrRmImm8 p rm v) :=
  congrArg (fun x => some (Instr.btrRmImm8 p x v)) (rm_map rm)

theorem btcRmR (p : Prefixes) (rm : RM Reg) (r : Reg) : Statement (.btcRmR p rm r) :=
  congrArg₂ (fun x y => some (Instr.btcRmR p x y)) (rm_map rm) (reg_of_num r)

theorem btcRmImm8 (p : Prefixes) (rm : RM Reg) (v : Byte) : Statement (.btcRmImm8 p rm v) :=
  congrArg (fun x => some (Instr.btcRmImm8 p x v)) (rm_map rm)

end Sys2Proof.Laws.Parts
end

