-- ==== Sys2Proof/Laws/Decode.lean ====
section
/-! SUPPORT. The decoder's readers, said once: bytes after those a reader used do not matter (20_memory.md R70), and each reader gives back what
the encoder wrote (30_encoding.md R100 to R113). -/

namespace Sys2Proof

/-! ## Bytes after those that were read -/

/-- What a reader gives does not depend on bytes after those it used. -/
def Stable {α : Type} (f : List Byte → Parsed α) : Prop :=
  ∀ bs x, (∀ a r, f bs = .got a r → f (bs ++ x) = .got a (r ++ x)) ∧ ∀ v r, f bs = .refuse v r → f (bs ++ x) = .refuse v (r ++ x)

theorem stable_got {α : Type} (a : α) : Stable (fun bs => .got a bs) := by
  intro bs x
  constructor
  · rintro b r ⟨⟩
    rfl
  · rintro v r ⟨⟩

theorem stable_refuse {α : Type} (v : Reject) : Stable (α := α) (fun bs => .refuse v bs) := by
  intro bs x
  constructor
  · rintro b r ⟨⟩
  · rintro w r ⟨⟩
    rfl

theorem stable_takeByte : Stable takeByte := by
  intro bs x
  cases bs with
  | nil => exact ⟨by rintro a r ⟨⟩, by rintro v r ⟨⟩⟩
  | cons b bs => exact ⟨by rintro a r ⟨⟩; rfl, by rintro v r ⟨⟩⟩

theorem stable_takeHalf : Stable takeHalf := by
  intro bs x
  match bs with
  | [] => exact ⟨by rintro a r ⟨⟩, by rintro v r ⟨⟩⟩
  | [_] => exact ⟨by rintro a r ⟨⟩, by rintro v r ⟨⟩⟩
  | _ :: _ :: _ => exact ⟨by rintro a r ⟨⟩; rfl, by rintro v r ⟨⟩⟩

theorem stable_takeWord : Stable takeWord := by
  intro bs x
  match bs with
  | [] => exact ⟨by rintro a r ⟨⟩, by rintro v r ⟨⟩⟩
  | [_] => exact ⟨by rintro a r ⟨⟩, by rintro v r ⟨⟩⟩
  | [_, _] => exact ⟨by rintro a r ⟨⟩, by rintro v r ⟨⟩⟩
  | [_, _, _] => exact ⟨by rintro a r ⟨⟩, by rintro v r ⟨⟩⟩
  | _ :: _ :: _ :: _ :: _ => exact ⟨by rintro a r ⟨⟩; rfl, by rintro v r ⟨⟩⟩

theorem stable_andThen {α β : Type} {f : List Byte → Parsed α} {k : α → List Byte → Parsed β} (hf : Stable f)
    (hk : ∀ a, Stable (k a)) : Stable fun bs => (f bs).andThen k := by
  intro bs x
  cases h : f bs with
  | got a r => simpa only [h, (hf bs x).1 a r h, Parsed.andThen] using hk a r x
  | refuse v r => simp [h, (hf bs x).2 v r h, Parsed.andThen]
  | more => simp [h, Parsed.andThen]

theorem stable_ite {α : Type} {c : Prop} [Decidable c] {f g : List Byte → Parsed α} (hf : Stable f) (hg : Stable g) :
    Stable fun bs => if c then f bs else g bs := by
  by_cases h : c <;> simpa only [h, if_true, if_false]

theorem stable_readPrefixes (acc : Prefixes) : Stable (readPrefixes acc) := by
  intro bs
  induction bs generalizing acc with
  | nil => exact fun x => ⟨by rintro a r ⟨⟩, by rintro v r ⟨⟩⟩
  | cons b bs ih =>
    intro x
    simp only [readPrefixes, List.cons_append]
    split
    · exact ⟨by rintro a r ⟨⟩, by rintro v r ⟨⟩; rfl⟩
    · split
      · exact ⟨by rintro a r ⟨⟩; rfl, by rintro v r ⟨⟩⟩
      · split
        · exact ⟨by rintro a r ⟨⟩, by rintro v r ⟨⟩; rfl⟩
        · exact ih _ x

theorem stable_readRm (mb : Byte) : Stable (readRm mb) := by
  unfold readRm
  refine stable_ite (stable_got _) (stable_ite ?_ ?_)
  · refine stable_andThen stable_takeByte fun sb => stable_ite (stable_ite ?_ (stable_got _)) (stable_ite ?_ ?_)
    · exact stable_andThen stable_takeWord fun _ => stable_got _
    · exact stable_andThen stable_takeByte fun _ => stable_got _
    · exact stable_andThen stable_takeWord fun _ => stable_got _
  · refine stable_ite (stable_ite ?_ (stable_got _)) (stable_ite ?_ ?_)
    · exact stable_andThen stable_takeWord fun _ => stable_got _
    · exact stable_andThen stable_takeByte fun _ => stable_got _
    · exact stable_andThen stable_takeWord fun _ => stable_got _

theorem stable_readImm (k : ImmKind) (p : Prefixes) : Stable (readImm k p) := by
  cases k
  · exact stable_got _
  · exact stable_andThen stable_takeByte fun _ => stable_got _
  · exact stable_andThen stable_takeHalf fun _ => stable_got _
  · exact stable_ite (stable_andThen stable_takeHalf fun _ => stable_got _) (stable_andThen stable_takeWord fun _ => stable_got _)
  · exact stable_andThen stable_takeByte fun _ => stable_got _
  · exact stable_andThen stable_takeWord fun _ => stable_got _
  · exact stable_andThen stable_takeWord fun _ => stable_got _

theorem stable_finish (x : Parts) : Stable (finish x) := by
  unfold finish
  cases x.build with
  | none => exact stable_refuse _
  | some i => exact stable_got i

theorem stable_decodeOpcode (tierG : Bool) (p : Prefixes) (escape : Bool) (b : Byte) : Stable (decodeOpcode tierG p escape b) := by
  unfold decodeOpcode
  cases formsAt escape b with
  | nil => exact stable_refuse _
  | cons f0 fs =>
    dsimp only
    refine stable_ite (stable_andThen stable_takeByte fun mb => ?_) ?_
    · cases (f0 :: fs).find? fun f => f.row.selected p mb with
      | none => exact stable_refuse _
      | some f =>
        dsimp only
        cases f.row.verdict tierG p (modOf mb == 3#2) with
        | some v => exact stable_refuse _
        | none =>
          exact stable_andThen (stable_readRm mb) fun _ => stable_andThen (stable_readImm _ p) fun _ => stable_finish _
    · cases (f0 :: fs).find? fun f => f.row.selected p 0#8 with
      | none => exact stable_refuse _
      | some f =>
        dsimp only
        cases f.row.verdict tierG p true with
        | some v => exact stable_refuse _
        | none => exact stable_andThen (stable_readImm _ p) fun _ => stable_finish _

/-- A verdict of the decoder, or an instruction, does not depend on the bytes after those that settled it. -/
theorem stable_decodeWith (tierG : Bool) : Stable (decodeWith tierG) :=
  stable_andThen (stable_readPrefixes []) fun _ => stable_andThen stable_takeByte fun _ =>
    stable_ite (stable_andThen stable_takeByte fun _ => stable_decodeOpcode _ _ _ _) (stable_decodeOpcode _ _ _ _)

/-! ## What the encoder wrote -/

@[simp] theorem takeByte_cons (b : Byte) (bs : List Byte) : takeByte (b :: bs) = .got b bs := rfl

theorem takeHalf_halfBytes (v : BitVec 16) (bs : List Byte) : takeHalf (halfBytes v ++ bs) = .got v bs := by
  simp only [halfBytes, List.cons_append, List.nil_append, takeHalf, Parsed.got.injEq, and_true]
  apply BitVec.eq_of_getLsbD_eq
  intro k hk
  rw [BitVec.getLsbD_append]
  split
  · simp [*]
  · simp [show k - 8 < 8 by omega, show 8 + (k - 8) = k by omega]

theorem takeWord_wordBytes (v : Word) (bs : List Byte) : takeWord (wordBytes v ++ bs) = .got v bs := by
  simp only [wordBytes, List.cons_append, List.nil_append, takeWord, Parsed.got.injEq, and_true]
  apply BitVec.eq_of_getLsbD_eq
  intro k hk
  simp only [BitVec.getLsbD_append]
  split
  · simp [*]
  · split
    · simp [show k - 8 < 8 by omega, show 8 + (k - 8) = k by omega]
    · split
      · simp [show k - 8 - 8 < 8 by omega, show 16 + (k - 8 - 8) = k by omega]
      · simp [show k - 8 - 8 - 8 < 8 by omega, show 24 + (k - 8 - 8 - 8) = k by omega]

theorem modOf_modrmByte (m : BitVec 2) (r k : BitVec 3) : modOf (modrmByte m r k) = m := by
  revert m r k; decide

theorem regOf_modrmByte (m : BitVec 2) (r k : BitVec 3) : regOf (modrmByte m r k) = r := by
  revert m r k; decide

theorem rmOf_modrmByte (m : BitVec 2) (r k : BitVec 3) : rmOf (modrmByte m r k) = k := by
  revert m r k; decide

theorem num_ofNum (k : BitVec 3) : (Reg.ofNum k).num = k := by revert k; decide

theorem num8_ofNum (k : BitVec 3) : (Reg8.ofNum k).num = k := by revert k; decide

theorem modrmByte_fields (b : Byte) : modrmByte (modOf b) (regOf b) (rmOf b) = b := by revert b; decide

/-- A SIB byte is read back, but for an index that a SIB byte cannot name. -/
theorem sibOf_modrmByte (x : Sib) (k : BitVec 3) (h : x.index ≠ some .esp) :
    sibOf (modrmByte x.scale.num x.indexNum k) = x := by
  obtain ⟨s, i⟩ := x
  simp only [sibOf, modOf_modrmByte, regOf_modrmByte]
  cases i with
  | none => cases s <;> rfl
  | some r => cases s <;> cases r <;> first | rfl | exact absurd rfl h

/-- The `reg` field of the ModR/M byte the encoder writes. -/
theorem rmBytes_head (reg : BitVec 3) (m : RM (BitVec 3)) :
    ∃ mb l, rmBytes reg m = mb :: l ∧ regOf mb = reg ∧ (modOf mb == 3#2) = (match m with | .reg _ => true | .mem _ => false) := by
  rcases m with k | m
  · exact ⟨_, _, rfl, regOf_modrmByte _ _ _, by simp [modOf_modrmByte]⟩
  · cases m <;> exact ⟨_, _, rfl, regOf_modrmByte _ _ _, by simp [modOf_modrmByte]⟩

/-- ModR/M, SIB and displacement are read back (R110 to R112). -/
theorem readRm_rmBytes (reg : BitVec 3) (m : RM (BitVec 3)) (bs : List Byte) (h : rmOk (some m) = true) :
    ∃ mb l, rmBytes reg m ++ bs = mb :: l ∧ readRm mb l = .got m bs := by
  rcases m with k | m
  · exact ⟨_, _, rfl, by simp [readRm, modOf_modrmByte, rmOf_modrmByte]⟩
  · cases m with
    | ind b =>
      refine ⟨_, _, rfl, ?_⟩
      have hb : b.num ≠ 4#3 ∧ b.num ≠ 5#3 := by revert h; cases b <;> simp [rmOk, Mem.wf, Reg.num]
      simp [readRm, modOf_modrmByte, rmOf_modrmByte, hb]
    | abs d => exact ⟨_, _, rfl, by simp [readRm, modOf_modrmByte, rmOf_modrmByte, takeWord_wordBytes, Parsed.andThen]⟩
    | sib x b =>
      have hx : x.index ≠ some .esp := by simp [rmOk, Mem.wf] at h; exact h.1
      refine ⟨_, _, rfl, ?_⟩
      have hb : b.num ≠ 5#3 := by revert h; cases b <;> simp [rmOk, Mem.wf, Reg.num]
      simp [readRm, modOf_modrmByte, rmOf_modrmByte, Parsed.andThen, sibOf_modrmByte x _ hx, hb]
    | sibAbs x d =>
      have hx : x.index ≠ some .esp := by simpa [rmOk, Mem.wf] using h
      refine ⟨_, _, rfl, ?_⟩
      simp [readRm, modOf_modrmByte, rmOf_modrmByte, takeWord_wordBytes, Parsed.andThen, sibOf_modrmByte x _ hx]
    | disp8 b d =>
      refine ⟨_, _, rfl, ?_⟩
      have hb : b.num ≠ 4#3 := by revert h; cases b <;> simp [rmOk, Mem.wf, Reg.num]
      simp [readRm, modOf_modrmByte, rmOf_modrmByte, Parsed.andThen, hb]
    | sibDisp8 x b d =>
      have hx : x.index ≠ some .esp := by simpa [rmOk, Mem.wf] using h
      refine ⟨_, _, rfl, ?_⟩
      simp [readRm, modOf_modrmByte, rmOf_modrmByte, Parsed.andThen, sibOf_modrmByte x _ hx]
    | disp32 b d =>
      refine ⟨_, _, rfl, ?_⟩
      have hb : b.num ≠ 4#3 := by revert h; cases b <;> simp [rmOk, Mem.wf, Reg.num]
      simp [readRm, modOf_modrmByte, rmOf_modrmByte, Parsed.andThen, hb, takeWord_wordBytes]
    | sibDisp32 x b d =>
      have hx : x.index ≠ some .esp := by simpa [rmOk, Mem.wf] using h
      refine ⟨_, _, rfl, ?_⟩
      simp [readRm, modOf_modrmByte, rmOf_modrmByte, Parsed.andThen, sibOf_modrmByte x _ hx, takeWord_wordBytes]

/-- An immediate of the size its row gives it is read back (R113). -/
theorem readImm_immBytes (k : ImmKind) (p : Prefixes) (v : Imm) (bs : List Byte) (h : immOk k p v = true) :
    readImm k p (immBytes v ++ bs) = .got v bs := by
  cases k <;> cases v <;> simp [immOk] at h <;>
    simp [readImm, immBytes, Parsed.andThen, takeHalf_halfBytes, takeWord_wordBytes, h]

@[simp] theorem prefixOf_byte (p : Prefix) : prefixOf p.byte = some p := by
  rcases p with _ | _ | s <;> first | rfl | (cases s <;> rfl)

@[simp] theorem refusedPrefix_byte (p : Prefix) : refusedPrefix p.byte = false := by
  rcases p with _ | _ | s <;> first | rfl | (cases s <;> rfl)

theorem byte_of_prefixOf {b : Byte} {p : Prefix} (h : prefixOf b = some p) : p.byte = b := by
  simp only [prefixOf] at h
  repeat' split at h
  all_goals first | (cases h; done) | (cases h; simp_all [Prefix.byte])

/-- Prefixes that may stand together are read back, up to a byte that is no prefix (R102 to R107). -/
theorem readPrefixes_bytes (acc p : Prefixes) (b : Byte) (bs : List Byte) (hp : p.wf = true)
    (ha : ∀ q ∈ p, (acc.any fun o => o.clash q) = false) (hr : refusedPrefix b = false) (hb : prefixOf b = none) :
    readPrefixes acc (p.map Prefix.byte ++ b :: bs) = .got (acc ++ p) (b :: bs) := by
  induction p generalizing acc with
  | nil => simp [readPrefixes, hr, hb]
  | cons q p ih =>
    simp only [Prefixes.wf, Bool.and_eq_true, Bool.not_eq_true', List.any_eq_false] at hp
    simp only [List.map_cons, List.cons_append, readPrefixes, refusedPrefix_byte, prefixOf_byte, ha q (by simp), Bool.false_eq_true,
      if_false]
    rw [ih (acc ++ [q]) hp.2, List.append_assoc]
    · rfl
    · intro o ho
      rw [List.any_append, ha o (by simp [ho]), Bool.false_or]
      simpa using hp.1 o ho

/-! ## Rows -/

/-- Every row is among those of its opcode bytes, whatever register number it carries, and no opcode byte is a prefix. -/
theorem mem_formsAt (f : Form) (k : BitVec 3) :
    let b := if f.row.mask = 0xF8#8 then f.row.code ||| k.setWidth 8 else f.row.code
    (formsAt f.row.escape b).contains f = true ∧
      (f.row.escape = false → refusedPrefix b = false ∧ (prefixOf b).isNone = true ∧ b ≠ 0x0F#8) := by
  cases f <;> revert k <;> decide +kernel

/-- Whether a row is selected, as a function of the two facts it depends on. -/
def Row.selectedBy (r : Row) (opsize : Bool) (digit : BitVec 3) : Bool :=
  (match r.modrm with
    | .digit d => d == digit
    | _ => true)
  && (r.prefix66 != .required || opsize)

theorem selected_eq (r : Row) (p : Prefixes) (mb : Byte) : r.selected p mb = r.selectedBy (p.contains .opsize) (regOf mb) := rfl

theorem find_selectedBy (f : Form) (k : BitVec 3) (o : Bool) (g : BitVec 3) :
    (match f.row.prefix66 with | .forbidden => !o | .v => true | .required => o) = true →
    f.row.regField g = g →
    let b := if f.row.mask = 0xF8#8 then f.row.code ||| k.setWidth 8 else f.row.code
    (formsAt f.row.escape b).find? (fun h => h.row.selectedBy o g) = some f := by
  cases f <;> revert k o g <;> decide +kernel

/-- The row of an opcode that `66` and the ModR/M digit select is the one the encoder started from (R103, R109). -/
theorem find_selected (f : Form) (k : BitVec 3) (p : Prefixes) (mb : Byte) (hp : opsizeOk f.row p = true)
    (hm : f.row.regField (regOf mb) = regOf mb) :
    let b := if f.row.mask = 0xF8#8 then f.row.code ||| k.setWidth 8 else f.row.code
    (formsAt f.row.escape b).find? (fun h => h.row.selected p mb) = some f := by
  simp only [selected_eq]
  refine find_selectedBy f k _ _ ?_ hm
  revert hp
  unfold opsizeOk
  cases f.row.prefix66 <;> exact id

/-- The rows of one opcode all have a ModR/M byte or none has (R117). -/
theorem hasModrm_formsAt (f : Form) (k : BitVec 3) :
    let b := if f.row.mask = 0xF8#8 then f.row.code ||| k.setWidth 8 else f.row.code
    (formsAt f.row.escape b).all (fun g => g.row.hasModrm == f.row.hasModrm) = true := by
  cases f <;> revert k <;> decide +kernel

/-- An instruction has an r/m operand exactly where its row has a ModR/M byte. -/
theorem raw_rm_isSome (i : Instr) : i.raw.rm.isSome = i.form.row.hasModrm := by
  cases i <;> rfl

/-- A row with neither a `reg` operand nor a register in its opcode leaves that raw field 0. -/
theorem raw_reg (i : Instr) (h : i.form.row.modrm ≠ .slashR) (h' : i.form.row.mask ≠ 0xF8#8) : i.raw.reg = 0#3 := by
  cases i <;> first | rfl | exact absurd rfl h | exact absurd rfl h'

/-- A row whose r/m operand is memory only has no register there (R140). -/
theorem raw_memOnly (i : Instr) (h : i.form.row.memOnly = true) (k : BitVec 3) : i.raw.rm ≠ some (.reg k) := by
  cases i <;> first | (cases h; done) | (intro h'; cases h')

end Sys2Proof
end

