-- ==== Sys2Proof/Laws/State.lean ====
section
/-! SUPPORT. One small lemma for each field of an update of the state, so that no proof unfolds a record update; the laws of a
register cell and of a flag. -/

namespace Sys2Proof.Machine

/-! ## Cells -/

@[simp] theorem RegFile.get_eax (x : RegFile) : x.get .eax = x.eax := rfl
@[simp] theorem RegFile.get_ecx (x : RegFile) : x.get .ecx = x.ecx := rfl
@[simp] theorem RegFile.get_edx (x : RegFile) : x.get .edx = x.edx := rfl
@[simp] theorem RegFile.get_ebx (x : RegFile) : x.get .ebx = x.ebx := rfl
@[simp] theorem RegFile.get_esp (x : RegFile) : x.get .esp = x.esp := rfl
@[simp] theorem RegFile.get_ebp (x : RegFile) : x.get .ebp = x.ebp := rfl
@[simp] theorem RegFile.get_esi (x : RegFile) : x.get .esi = x.esi := rfl
@[simp] theorem RegFile.get_edi (x : RegFile) : x.get .edi = x.edi := rfl

@[simp] theorem RegFile.set_eax (x : RegFile) (v : Word) : x.set .eax v = { x with eax := v } := rfl
@[simp] theorem RegFile.set_ecx (x : RegFile) (v : Word) : x.set .ecx v = { x with ecx := v } := rfl
@[simp] theorem RegFile.set_edx (x : RegFile) (v : Word) : x.set .edx v = { x with edx := v } := rfl
@[simp] theorem RegFile.set_ebx (x : RegFile) (v : Word) : x.set .ebx v = { x with ebx := v } := rfl
@[simp] theorem RegFile.set_esp (x : RegFile) (v : Word) : x.set .esp v = { x with esp := v } := rfl
@[simp] theorem RegFile.set_ebp (x : RegFile) (v : Word) : x.set .ebp v = { x with ebp := v } := rfl
@[simp] theorem RegFile.set_esi (x : RegFile) (v : Word) : x.set .esi v = { x with esi := v } := rfl
@[simp] theorem RegFile.set_edi (x : RegFile) (v : Word) : x.set .edi v = { x with edi := v } := rfl

@[simp] theorem RegFile.get_set_self (x : RegFile) (r : Reg) (v : Word) : (x.set r v).get r = v := by cases r <;> rfl

theorem RegFile.get_set_of_ne (x : RegFile) {r q : Reg} (v : Word) (h : q ≠ r) : (x.set r v).get q = x.get q := by
  cases r <;> cases q <;> first | rfl | exact absurd rfl h

@[simp] theorem RegFile.set_get_self (x : RegFile) (r : Reg) : x.set r (x.get r) = x := by cases r <;> rfl

theorem RegFile.ext_get {x y : RegFile} (h : ∀ r, x.get r = y.get r) : x = y := by
  cases x
  cases y
  simpa using And.intro (h .eax) (And.intro (h .ecx) (And.intro (h .edx) (And.intro (h .ebx) (And.intro (h .esp)
    (And.intro (h .ebp) (And.intro (h .esi) (h .edi)))))))

/-! ## Flags -/

@[simp] theorem setFlag_CF (x : Flags) (b : Bool) : setFlag x .CF b = { x with CF := b } := rfl
@[simp] theorem setFlag_PF (x : Flags) (b : Bool) : setFlag x .PF b = { x with PF := b } := rfl
@[simp] theorem setFlag_AF (x : Flags) (b : Bool) : setFlag x .AF b = { x with AF := b } := rfl
@[simp] theorem setFlag_ZF (x : Flags) (b : Bool) : setFlag x .ZF b = { x with ZF := b } := rfl
@[simp] theorem setFlag_SF (x : Flags) (b : Bool) : setFlag x .SF b = { x with SF := b } := rfl
@[simp] theorem setFlag_OF (x : Flags) (b : Bool) : setFlag x .OF b = { x with OF := b } := rfl
@[simp] theorem setFlag_DF (x : Flags) (b : Bool) : setFlag x .DF b = { x with DF := b } := rfl

@[simp] theorem getFlag_setFlag_self (x : Flags) (f : Flag) (b : Bool) : getFlag (setFlag x f b) f = b := by cases f <;> rfl

theorem getFlag_setFlag_of_ne (x : Flags) {f g : Flag} (b : Bool) (h : g ≠ f) : getFlag (setFlag x f b) g = getFlag x g := by
  cases f <;> cases g <;> first | rfl | exact absurd rfl h

/-! ## The commit -/

@[simp] theorem commit_regs (s : State) (e : Effect) (n : Word) : (commit s e n).regs = commitRegs s.regs e.regs := rfl
@[simp] theorem commit_eip (s : State) (e : Effect) (n : Word) : (commit s e n).eip = e.ip.getD n := rfl
@[simp] theorem commit_flags (s : State) (e : Effect) (n : Word) : (commit s e n).flags = commitFlags s.flags e.flags := rfl
@[simp] theorem commit_maps (s : State) (e : Effect) (n : Word) : (commit s e n).mem.maps = s.mem.maps := rfl
@[simp] theorem commit_bytes (s : State) (e : Effect) (n : Word) :
    (commit s e n).mem.bytes = commitMems s.mem.bytes e.mems := rfl

@[simp] theorem commitRegs_nil (x : RegFile) : commitRegs x [] = x := rfl
@[simp] theorem commitRegs_cons (x : RegFile) (w : RegWrite) (ws : List RegWrite) :
    commitRegs x (w :: ws) = commitRegs (x.writeView w.view w.value) ws := rfl
@[simp] theorem commitMems_nil (m : Memory) : commitMems m [] = m := rfl
@[simp] theorem commitMems_cons (m : Memory) (w : MemWrite) (ws : List MemWrite) :
    commitMems m (w :: ws) = commitMems (Memory.writeLE m w.addr w.size w.value) ws := rfl
@[simp] theorem commitFlags_nil (x : Flags) : commitFlags x [] = x := rfl
@[simp] theorem commitFlags_cons (x : Flags) (f : Flag × Bool) (fs : List (Flag × Bool)) :
    commitFlags x (f :: fs) = commitFlags (setFlag x f.1 f.2) fs := rfl
@[simp] theorem commitFlags_append (x : Flags) (fs gs : List (Flag × Bool)) :
    commitFlags x (fs ++ gs) = commitFlags (commitFlags x fs) gs := by simp [commitFlags, List.foldl_append]

@[simp] theorem withFlags_regs (e : Effect) (fs : List (Flag × Bool)) : (e.withFlags fs).regs = e.regs := rfl
@[simp] theorem withFlags_mems (e : Effect) (fs : List (Flag × Bool)) : (e.withFlags fs).mems = e.mems := rfl
@[simp] theorem withFlags_flags (e : Effect) (fs : List (Flag × Bool)) : (e.withFlags fs).flags = e.flags ++ fs := rfl
@[simp] theorem withFlags_ip (e : Effect) (fs : List (Flag × Bool)) : (e.withFlags fs).ip = e.ip := rfl

/-! ## The host's setters -/

@[simp] theorem setView_regs {w : Width} (s : State) (v : View w) (x : BitVec w.bits) :
    (setView s v x).regs = s.regs.writeView v x := rfl
@[simp] theorem setView_eip {w : Width} (s : State) (v : View w) (x : BitVec w.bits) : (setView s v x).eip = s.eip := rfl
@[simp] theorem setView_flags {w : Width} (s : State) (v : View w) (x : BitVec w.bits) : (setView s v x).flags = s.flags := rfl
@[simp] theorem setView_mem {w : Width} (s : State) (v : View w) (x : BitVec w.bits) : (setView s v x).mem = s.mem := rfl
@[simp] theorem setEip_regs (s : State) (v : Word) : (setEip s v).regs = s.regs := rfl
@[simp] theorem setEip_eip (s : State) (v : Word) : (setEip s v).eip = v := rfl
@[simp] theorem setEip_flags (s : State) (v : Word) : (setEip s v).flags = s.flags := rfl
@[simp] theorem setEip_mem (s : State) (v : Word) : (setEip s v).mem = s.mem := rfl
@[simp] theorem setFlagOf_regs (s : State) (f : Flag) (b : Bool) : (setFlagOf s f b).regs = s.regs := rfl
@[simp] theorem setFlagOf_eip (s : State) (f : Flag) (b : Bool) : (setFlagOf s f b).eip = s.eip := rfl
@[simp] theorem setFlagOf_flags (s : State) (f : Flag) (b : Bool) : (setFlagOf s f b).flags = setFlag s.flags f b := rfl
@[simp] theorem setFlagOf_mem (s : State) (f : Flag) (b : Bool) : (setFlagOf s f b).mem = s.mem := rfl

end Sys2Proof.Machine
end

