-- ==== Sys2Proof/Laws/Memory.lean ====
section
/-! SUPPORT. The laws of memory: read after write, the canonical form, little-endian accesses, the checks, and that equal canonical
memories read the same only where they are equal. -/

namespace Sys2Proof.Machine

/-! ## One byte -/

theorem Memory.read_erase_self (m : Memory) (a : Nat) : Memory.read (Memory.erase m a) a = Config.unlistedByte := by
  induction m with
  | nil => rfl
  | cons c cs ih =>
    by_cases h : c.1 = a
    · simpa [Memory.erase, List.filter_cons, h] using ih
    · simpa [Memory.erase, List.filter_cons, h, Memory.read] using ih

theorem Memory.read_erase_of_ne (m : Memory) {a b : Nat} (h : b ≠ a) :
    Memory.read (Memory.erase m a) b = Memory.read m b := by
  induction m with
  | nil => rfl
  | cons c cs ih =>
    by_cases hc : c.1 = a
    · simpa [Memory.erase, List.filter_cons, hc, Memory.read, Ne.symm h] using ih
    · by_cases hb : c.1 = b
      · simp [Memory.erase, hb, h, Memory.read]
      · simpa [Memory.erase, List.filter_cons, hc, Memory.read, hb] using ih

theorem Memory.read_insert (m : Memory) (a b : Nat) (v : Byte) (h : ∀ c ∈ m, c.1 ≠ a) :
    Memory.read (Memory.insert m a v) b = if b = a then v else Memory.read m b := by
  induction m with
  | nil => simp [Memory.insert, Memory.read, eq_comm]
  | cons c cs ih =>
    have hc := h c (by simp)
    have ih := ih fun d hd => h d (by simp [hd])
    unfold Memory.insert
    split
    · by_cases hb : b = a
      · simp [Memory.read, hb]
      · simp [Memory.read, hb, Ne.symm hb]
    · simp only [Memory.read, ih]
      by_cases hb : b = a
      · simp [hb, hc]
      · simp [hb]

/-- A byte read after a byte is stored. -/
theorem Memory.read_write (m : Memory) (a b : Nat) (v : Byte) :
    Memory.read (Memory.write m a v) b = if b = a then v else Memory.read m b := by
  unfold Memory.write
  split
  · rename_i hv
    by_cases hb : b = a
    · simp [hb, hv, Memory.read_erase_self]
    · simp [hb, Memory.read_erase_of_ne m hb]
  · rw [Memory.read_insert _ _ _ _ (by simp [Memory.erase])]
    by_cases hb : b = a
    · simp [hb]
    · simp [hb, Memory.read_erase_of_ne m hb]

@[simp] theorem Memory.read_write_self (m : Memory) (a : Nat) (v : Byte) : Memory.read (Memory.write m a v) a = v := by
  simp [Memory.read_write]

theorem Memory.read_write_of_ne (m : Memory) {a b : Nat} (v : Byte) (h : b ≠ a) :
    Memory.read (Memory.write m a v) b = Memory.read m b := by simp [Memory.read_write, h]

/-! ## The canonical form -/

theorem Memory.wf_cons (c : Host.Cell) (m : Memory) :
    Memory.wf (c :: m) = true ↔ c.2 ≠ Config.unlistedByte ∧ (∀ d ∈ m, c.1 < d.1) ∧ Memory.wf m = true := by
  simp [Memory.wf, and_assoc]

theorem Memory.wf_erase {m : Memory} (a : Nat) (h : Memory.wf m = true) : Memory.wf (Memory.erase m a) = true := by
  induction m with
  | nil => rfl
  | cons c cs ih =>
    obtain ⟨h1, h2, h3⟩ := (Memory.wf_cons c cs).1 h
    by_cases hc : c.1 = a
    · simpa [Memory.erase, List.filter_cons, hc] using ih h3
    · have : Memory.erase (c :: cs) a = c :: Memory.erase cs a := by simp [Memory.erase, hc]
      rw [this, Memory.wf_cons]
      exact ⟨h1, fun d hd => h2 d (List.mem_of_mem_filter hd), ih h3⟩

theorem Memory.mem_insert {m : Memory} {a : Nat} {v : Byte} {c : Host.Cell} (h : c ∈ Memory.insert m a v) : c = (a, v) ∨ c ∈ m := by
  induction m with
  | nil => simpa [Memory.insert] using h
  | cons d ds ih =>
    unfold Memory.insert at h
    split at h
    · simpa using h
    · rcases List.mem_cons.1 h with h | h
      · exact .inr (by simp [h])
      · rcases ih h with h | h
        · exact .inl h
        · exact .inr (by simp [h])

theorem Memory.wf_insert {m : Memory} {a : Nat} {v : Byte} (h : Memory.wf m = true) (hv : v ≠ Config.unlistedByte)
    (ha : ∀ c ∈ m, c.1 ≠ a) : Memory.wf (Memory.insert m a v) = true := by
  induction m with
  | nil => simp [Memory.insert, Memory.wf, hv]
  | cons c cs ih =>
    obtain ⟨h1, h2, h3⟩ := (Memory.wf_cons c cs).1 h
    have hc := ha c (by simp)
    unfold Memory.insert
    split
    · rename_i hlt
      rw [Memory.wf_cons]
      refine ⟨hv, fun d hd => ?_, h⟩
      rcases List.mem_cons.1 hd with rfl | hd
      · exact hlt
      · exact Nat.lt_trans hlt (h2 d hd)
    · rw [Memory.wf_cons]
      refine ⟨h1, fun d hd => ?_, ih h3 fun d hd => ha d (by simp [hd])⟩
      rcases Memory.mem_insert hd with rfl | hd
      · exact Nat.lt_of_le_of_ne (by omega) hc
      · exact h2 d hd

/-- Storing a byte keeps the canonical form. -/
theorem Memory.wf_write {m : Memory} (a : Nat) (v : Byte) (h : Memory.wf m = true) : Memory.wf (Memory.write m a v) = true := by
  unfold Memory.write
  split
  · exact Memory.wf_erase a h
  · exact Memory.wf_insert (Memory.wf_erase a h) ‹_› (by simp [Memory.erase])

theorem Memory.wf_writeLE {m : Memory} (a n v : Nat) (h : Memory.wf m = true) : Memory.wf (Memory.writeLE m a n v) = true := by
  induction n generalizing m a v with
  | zero => exact h
  | succ n ih => exact ih _ _ (Memory.wf_write _ _ h)

theorem Memory.wf_storeBytes {m : Memory} (a : Nat) (bs : List Byte) (h : Memory.wf m = true) :
    Memory.wf (storeBytes m a bs) = true := by
  induction bs generalizing m a with
  | nil => exact h
  | cons b bs ih => exact ih _ (Memory.wf_write _ _ h)

theorem commitMems_wf {m : Memory} (ws : List MemWrite) (h : Memory.wf m = true) : Memory.wf (commitMems m ws) = true := by
  induction ws generalizing m with
  | nil => exact h
  | cons w ws ih => exact ih (Memory.wf_writeLE _ _ _ h)

/-- Canonical memories that read the same at every address are equal. -/
theorem Memory.eq_of_read {m n : Memory} (hm : Memory.wf m = true) (hn : Memory.wf n = true)
    (h : ∀ a, Memory.read m a = Memory.read n a) : m = n := by
  have below : ∀ {k : Memory} {a : Nat}, (∀ d ∈ k, a < d.1) → Memory.read k a = Config.unlistedByte := by
    intro k a hk
    induction k with
    | nil => rfl
    | cons d ds ih =>
      have := hk d (by simp)
      simp only [Memory.read, show d.1 ≠ a by omega, if_false]
      exact ih fun e he => hk e (by simp [he])
  induction m generalizing n with
  | nil =>
    cases n with
    | nil => rfl
    | cons d ds =>
      have := (Memory.wf_cons d ds).1 hn
      have e := h d.1
      simp only [Memory.read, if_true] at e
      exact absurd e.symm this.1
  | cons c cs ih =>
    obtain ⟨h1, h2, h3⟩ := (Memory.wf_cons c cs).1 hm
    cases n with
    | nil =>
      have e := h c.1
      simp only [Memory.read, if_true] at e
      exact absurd e h1
    | cons d ds =>
      obtain ⟨k1, k2, k3⟩ := (Memory.wf_cons d ds).1 hn
      have hcd : c.1 = d.1 := by
        rcases Nat.lt_trichotomy c.1 d.1 with hlt | heq | hgt
        · have e := h c.1
          rw [below (k := d :: ds) (fun x hx => by
            rcases List.mem_cons.1 hx with rfl | hx
            · exact hlt
            · exact Nat.lt_trans hlt (k2 x hx))] at e
          simp only [Memory.read, if_true] at e
          exact absurd e h1
        · exact heq
        · have e := h d.1
          rw [below (k := c :: cs) (fun x hx => by
            rcases List.mem_cons.1 hx with rfl | hx
            · exact hgt
            · exact Nat.lt_trans hgt (h2 x hx))] at e
          simp only [Memory.read, if_true] at e
          exact absurd e.symm k1
      have hv : c.2 = d.2 := by
        have e := h c.1
        simpa [Memory.read, hcd] using e
      have : cs = ds := ih h3 k3 fun a => by
        by_cases ha : a = c.1
        · subst ha
          rw [below h2, below (by rw [hcd]; exact k2)]
        · have e := h a
          simpa [Memory.read, Ne.symm ha, show d.1 ≠ a from fun e => ha (by omega)] using e
      rw [this, show c = d from Prod.ext hcd hv]

/-! ## Addresses listed -/

theorem Memory.mem_write {m : Memory} {a : Nat} {v : Byte} {c : Host.Cell} (h : c ∈ Memory.write m a v) : c.1 = a ∨ c ∈ m := by
  unfold Memory.write at h
  split at h
  · exact .inr (List.mem_of_mem_filter h)
  · rcases Memory.mem_insert h with h | h
    · exact .inl (by simp [h])
    · exact .inr (List.mem_of_mem_filter h)

theorem Memory.mem_writeLE {m : Memory} {a n v : Nat} {c : Host.Cell} (h : c ∈ Memory.writeLE m a n v) :
    (a ≤ c.1 ∧ c.1 < a + n) ∨ c ∈ m := by
  induction n generalizing m a v with
  | zero => exact .inr h
  | succ n ih =>
    rcases ih h with h | h
    · exact .inl (by omega)
    · rcases Memory.mem_write h with h | h
      · exact .inl (by omega)
      · exact .inr h

/-! ## Little-endian accesses -/

theorem Memory.read_writeLE_outside (m : Memory) {a n v b : Nat} (h : b < a ∨ a + n ≤ b) :
    Memory.read (Memory.writeLE m a n v) b = Memory.read m b := by
  induction n generalizing m a v with
  | zero => rfl
  | succ n ih =>
    show Memory.read (Memory.writeLE (Memory.write m a (BitVec.ofNat 8 v)) (a + 1) n (v / 256)) b = _
    rw [ih _ (by omega), Memory.read_write_of_ne _ _ (by omega)]

theorem Memory.read_writeLE_inside (m : Memory) {a n v k : Nat} (h : k < n) :
    Memory.read (Memory.writeLE m a n v) (a + k) = BitVec.ofNat 8 (v / 256 ^ k) := by
  induction n generalizing m a v k with
  | zero => omega
  | succ n ih =>
    show Memory.read (Memory.writeLE (Memory.write m a (BitVec.ofNat 8 v)) (a + 1) n (v / 256)) (a + k) = _
    cases k with
    | zero => rw [Memory.read_writeLE_outside _ (by omega)]; simp
    | succ k =>
      rw [show a + (k + 1) = a + 1 + k by omega, ih _ (by omega), Nat.div_div_eq_div_mul, Nat.pow_succ']

theorem Memory.readLE_lt (m : Memory) (a n : Nat) : Memory.readLE m a n < 256 ^ n := by
  induction n generalizing a with
  | zero => simp [Memory.readLE]
  | succ n ih =>
    have h1 := ih (a + 1)
    have h2 := (Memory.read m a).isLt
    simp only [Memory.readLE, Nat.pow_succ]
    omega

theorem Memory.readLE_byte (m : Memory) {a n k : Nat} (h : k < n) :
    Memory.readLE m a n / 256 ^ k % 256 = (Memory.read m (a + k)).toNat := by
  induction n generalizing a k with
  | zero => omega
  | succ n ih =>
    have h2 := (Memory.read m a).isLt
    cases k with
    | zero => simp only [Memory.readLE, Nat.pow_zero, Nat.div_one, Nat.add_zero]; omega
    | succ k =>
      simp only [Memory.readLE, Nat.pow_succ', ← Nat.div_div_eq_div_mul]
      rw [show ((Memory.read m a).toNat + 256 * Memory.readLE m (a + 1) n) / 256 = Memory.readLE m (a + 1) n by omega,
        ih (by omega), show a + 1 + k = a + (k + 1) by omega]

theorem Memory.readLE_congr {m n : Memory} {a k : Nat} (h : ∀ j, j < k → Memory.read m (a + j) = Memory.read n (a + j)) :
    Memory.readLE m a k = Memory.readLE n a k := by
  induction k generalizing a with
  | zero => rfl
  | succ k ih =>
    simp only [Memory.readLE]
    rw [ih fun j hj => by have := h (j + 1) (by omega); rwa [show a + (j + 1) = a + 1 + j by omega] at this]
    have := h 0 (by omega)
    rw [Nat.add_zero] at this
    rw [this]

/-! ## Byte lists -/

@[simp] theorem bytesAt_length (m : Memory) (a n : Nat) : (bytesAt m a n).length = n := by
  induction n generalizing a with
  | zero => rfl
  | succ n ih => simp [bytesAt, ih]

theorem bytesAt_getElem (m : Memory) (a n k : Nat) (h : k < (bytesAt m a n).length) :
    (bytesAt m a n)[k] = Memory.read m (a + k) := by
  induction n generalizing a k with
  | zero => simp [bytesAt] at h
  | succ n ih =>
    cases k with
    | zero => simp [bytesAt]
    | succ k =>
      simp only [bytesAt, List.getElem_cons_succ]
      rw [ih, show a + 1 + k = a + (k + 1) by omega]

theorem bytesAt_add (m : Memory) (a n k : Nat) : bytesAt m a (n + k) = bytesAt m a n ++ bytesAt m (a + n) k := by
  induction n generalizing a with
  | zero => simp [bytesAt]
  | succ n ih => rw [show n + 1 + k = n + k + 1 by omega]; simp only [bytesAt, ih, List.cons_append]; congr 3; omega

theorem bytesAt_congr {m n : Memory} {a k : Nat} (h : ∀ j, j < k → Memory.read m (a + j) = Memory.read n (a + j)) :
    bytesAt m a k = bytesAt n a k := by
  apply List.ext_getElem (by simp)
  intro j h1 h2
  rw [bytesAt_getElem, bytesAt_getElem, h j (by simpa using h1)]

theorem read_storeBytes_outside (m : Memory) {a b : Nat} (bs : List Byte) (h : b < a ∨ a + bs.length ≤ b) :
    Memory.read (storeBytes m a bs) b = Memory.read m b := by
  induction bs generalizing m a with
  | nil => rfl
  | cons c cs ih =>
    simp only [List.length_cons] at h
    rw [storeBytes, ih _ (by omega), Memory.read_write_of_ne _ _ (by omega)]

theorem read_storeBytes_inside (m : Memory) (a : Nat) (bs : List Byte) (k : Nat) (h : k < bs.length) :
    Memory.read (storeBytes m a bs) (a + k) = bs[k] := by
  induction bs generalizing m a k with
  | nil => simp at h
  | cons c cs ih =>
    rw [storeBytes]
    cases k with
    | zero => rw [read_storeBytes_outside _ _ (by omega)]; simp
    | succ k =>
      rw [show a + (k + 1) = a + 1 + k by omega, ih]
      rfl

/-! ## Checks -/

theorem AddressSpace.check_eq_none {x : AddressSpace} {k : Access} {a n : Nat} : x.check k a n = none ↔ x.Admitted k a n := by
  induction n generalizing a with
  | zero => simp [AddressSpace.check, AddressSpace.Admitted]
  | succ n ih =>
    unfold AddressSpace.check
    split
    · rename_i h
      rw [ih]
      constructor
      · intro g j hj
        cases j with
        | zero => simpa using h
        | succ j => have := g j (by omega); rwa [show a + 1 + j = a + (j + 1) by omega] at this
      · intro g j hj
        have := g (j + 1) (by omega)
        rwa [show a + (j + 1) = a + 1 + j by omega] at this
    · rename_i h
      simp only [reduceCtorEq, false_iff]
      intro g
      exact h (by simpa using g 0 (by omega))

/-- The check fails at the first byte that is not admitted. -/
theorem AddressSpace.check_eq_some {x : AddressSpace} {k : Access} {a n : Nat} {f : Fault} :
    x.check k a n = some f ↔ ∃ j, j < n ∧ x.Admitted k a j ∧ x.admits k (a + j) = false ∧ f = x.faultAt (a + j) := by
  induction n generalizing a with
  | zero => simp [AddressSpace.check]
  | succ n ih =>
    unfold AddressSpace.check
    split
    · rename_i h
      rw [ih]
      constructor
      · rintro ⟨j, h1, h2, h3, h4⟩
        refine ⟨j + 1, by omega, fun i hi => ?_, by rwa [show a + (j + 1) = a + 1 + j by omega],
          by rwa [show a + (j + 1) = a + 1 + j by omega]⟩
        cases i with
        | zero => simpa using h
        | succ i => have := h2 i (by omega); rwa [show a + 1 + i = a + (i + 1) by omega] at this
      · rintro ⟨j, h1, h2, h3, h4⟩
        cases j with
        | zero => rw [Nat.add_zero] at h3; simp [h] at h3
        | succ j =>
          refine ⟨j, by omega, fun i hi => ?_, by rwa [show a + 1 + j = a + (j + 1) by omega],
            by rwa [show a + 1 + j = a + (j + 1) by omega]⟩
          have := h2 (i + 1) (by omega)
          rwa [show a + (i + 1) = a + 1 + i by omega] at this
    · rename_i h
      constructor
      · intro e
        refine ⟨0, by omega, fun i hi => by omega, by simpa using h, ?_⟩
        simpa using e.symm
      · rintro ⟨j, h1, h2, h3, h4⟩
        cases j with
        | zero => simp [h4]
        | succ j => exact absurd (by simpa using h2 0 (by omega)) h

theorem AddressSpace.mapped_of_admits {x : AddressSpace} {k : Access} {a : Nat} (h : x.admits k a = true) : x.mapped a = true := by
  simp only [AddressSpace.admits, AddressSpace.mapped, List.any_eq_true, Bool.and_eq_true] at h ⊢
  obtain ⟨m, h1, h2, -⟩ := h
  exact ⟨m, h1, h2⟩

theorem AddressSpace.faultAt_eq (x : AddressSpace) (a : Nat) :
    x.faultAt a = .memoryFault (if x.mapped a then .permissionDenied else .unmapped) a := by
  unfold AddressSpace.faultAt; split <;> rfl

/-- All a checked read can do: the little-endian value where every byte is admitted, else the first failing byte's fault. -/
theorem memRead_eq (x : AddressSpace) (w : Width) (a : Word) :
    (x.Admitted .read a.toNat w.bytes ∧ memRead x w a = .ok (BitVec.ofNat w.bits (Memory.readLE x.bytes a.toNat w.bytes))) ∨
    ∃ j, j < w.bytes ∧ x.Admitted .read a.toNat j ∧ x.admits .read (a.toNat + j) = false ∧
      memRead x w a = .error (x.faultAt (a.toNat + j)) := by
  unfold memRead
  cases h : x.check .read a.toNat w.bytes with
  | none => exact .inl ⟨AddressSpace.check_eq_none.1 h, rfl⟩
  | some f =>
    obtain ⟨j, h1, h2, h3, rfl⟩ := AddressSpace.check_eq_some.1 h
    exact .inr ⟨j, h1, h2, h3, rfl⟩

theorem memRead_ok {x : AddressSpace} {w : Width} {a : Word} {v : BitVec w.bits} (h : memRead x w a = .ok v) :
    x.Admitted .read a.toNat w.bytes ∧ v = BitVec.ofNat w.bits (Memory.readLE x.bytes a.toNat w.bytes) := by
  rcases memRead_eq x w a with ⟨h1, h2⟩ | ⟨j, -, -, -, h2⟩
  · rw [h2] at h; exact ⟨h1, (Except.ok.inj h).symm⟩
  · rw [h2] at h; cases h

theorem memRead_admitted {x : AddressSpace} {w : Width} {a : Word} (h : x.Admitted .read a.toNat w.bytes) :
    memRead x w a = .ok (BitVec.ofNat w.bits (Memory.readLE x.bytes a.toNat w.bytes)) := by
  rw [memRead, AddressSpace.check_eq_none.2 h]

end Sys2Proof.Machine
end

