-- ==== Sys2Proof/Laws/Views.lean ====
section
/-! SUPPORT. The laws of register views (10_state.md R31 to R34). -/

namespace Sys2Proof.Machine

@[simp] theorem Reg.ofNum_num (r : Reg) : Reg.ofNum r.num = r := by cases r <;> rfl
@[simp] theorem Reg8.ofNum_num (r : Reg8) : Reg8.ofNum r.num = r := by cases r <;> rfl
theorem Reg.num_ofNum (k : BitVec 3) : (Reg.ofNum k).num = k := by revert k; decide
theorem Reg8.num_ofNum (k : BitVec 3) : (Reg8.ofNum k).num = k := by revert k; decide

@[simp] theorem viewOfNum_num8 (r : Reg8) : viewOfNum .w8 r.num = .b r := by simp [viewOfNum]
@[simp] theorem viewOfNum_num16 (r : Reg) : viewOfNum .w16 r.num = .w r := by simp [viewOfNum]
@[simp] theorem viewOfNum_num32 (r : Reg) : viewOfNum .w32 r.num = .d r := by simp [viewOfNum]

theorem extract_append_low8 (c : Word) (v : Byte) : (c.extractLsb' 8 24 ++ v : BitVec 32).extractLsb' 0 8 = v := by
  apply BitVec.eq_of_getLsbD_eq
  intro i hi
  rw [BitVec.getLsbD_extractLsb', Nat.zero_add]
  erw [BitVec.getLsbD_append]
  simp [hi]

theorem extract_append_high8 (c : Word) (v : Byte) :
    (c.extractLsb' 16 16 ++ v ++ c.extractLsb' 0 8 : BitVec 32).extractLsb' 8 8 = v := by
  apply BitVec.eq_of_getLsbD_eq
  intro i hi
  rw [BitVec.getLsbD_extractLsb']
  erw [BitVec.getLsbD_append, BitVec.getLsbD_append]
  simp [hi]

theorem extract_append_low16 (c : Word) (v : BitVec 16) : (c.extractLsb' 16 16 ++ v : BitVec 32).extractLsb' 0 16 = v := by
  apply BitVec.eq_of_getLsbD_eq
  intro i hi
  rw [BitVec.getLsbD_extractLsb', Nat.zero_add]
  erw [BitVec.getLsbD_append]
  simp [hi]

/-- Reading back a view just written. -/
@[simp] theorem readView_writeView_self {w : Width} (x : RegFile) (v : View w) (b : BitVec w.bits) :
    (x.writeView v b).readView v = b := by
  cases v with
  | b r =>
    cases h : isHigh8 r
    · simp only [RegFile.writeView, RegFile.readView, h, Bool.false_eq_true, if_false, RegFile.get_set_self]
      exact extract_append_low8 _ _
    · simp only [RegFile.writeView, RegFile.readView, h, if_true, RegFile.get_set_self]
      exact extract_append_high8 _ _
  | w r =>
    simp only [RegFile.writeView, RegFile.readView, RegFile.get_set_self]
    exact extract_append_low16 _ _
  | d r => simp [RegFile.writeView, RegFile.readView]

/-- Writing a view keeps every other cell. -/
theorem get_writeView_of_ne {w : Width} (x : RegFile) (v : View w) (b : BitVec w.bits) {r : Reg} (h : r ≠ v.cell) :
    (x.writeView v b).get r = x.get r := by
  cases v with
  | b q => cases hq : isHigh8 q <;> simp only [RegFile.writeView, hq, if_true, Bool.false_eq_true, if_false] <;>
      exact RegFile.get_set_of_ne _ _ h
  | w q => exact RegFile.get_set_of_ne _ _ h
  | d q => exact RegFile.get_set_of_ne _ _ h

/-- Writing a view keeps every bit of its cell outside the view. -/
theorem getLsbD_writeView {w : Width} (x : RegFile) (v : View w) (b : BitVec w.bits) {k : Nat} (h : v.covers k = false) :
    ((x.writeView v b).get v.cell).getLsbD k = (x.get v.cell).getLsbD k := by
  by_cases hk : k < 32
  swap
  · rw [BitVec.getLsbD_of_ge _ _ (by omega), BitVec.getLsbD_of_ge _ _ (by omega)]
  cases v with
  | b r =>
    cases hr : isHigh8 r
    · simp only [View.covers, hr, Bool.false_eq_true, if_false, decide_eq_false_iff_not] at h
      simp only [RegFile.writeView, View.cell, hr, Bool.false_eq_true, if_false, RegFile.get_set_self]
      simp [BitVec.getLsbD_append, h, show k - 8 < 24 by omega, show 8 + (k - 8) = k by omega]
    · simp only [View.covers, hr, if_true, Bool.and_eq_false_iff, decide_eq_false_iff_not] at h
      simp only [RegFile.writeView, View.cell, hr, if_true, RegFile.get_set_self]
      rcases h with h | h
      · simp [BitVec.getLsbD_append, show k < 8 by omega]
      · simp [BitVec.getLsbD_append, show ¬ k < 8 by omega, show ¬ k - 8 < 8 by omega, show k - 8 - 8 < 16 by omega,
          show 16 + (k - 8 - 8) = k by omega]
  | w r =>
    simp only [View.covers, decide_eq_false_iff_not] at h
    simp only [RegFile.writeView, View.cell, RegFile.get_set_self]
    simp [BitVec.getLsbD_append, h, show k - 16 < 16 by omega, show 16 + (k - 16) = k by omega]
  | d r => simp [View.covers] at h

/-- Writing back what a view holds changes nothing. -/
@[simp] theorem writeView_readView_self {w : Width} (x : RegFile) (v : View w) : x.writeView v (x.readView v) = x := by
  apply RegFile.ext_get
  intro r
  by_cases hr : r = v.cell
  swap
  · exact get_writeView_of_ne _ _ _ hr
  subst hr
  apply BitVec.eq_of_getLsbD_eq
  intro k hk
  by_cases hc : v.covers k = false
  · exact getLsbD_writeView _ _ _ hc
  · cases v with
    | b q =>
      cases hq : isHigh8 q
      · simp only [View.covers, hq, Bool.false_eq_true, if_false, decide_eq_false_iff_not, not_not] at hc
        simp [RegFile.writeView, RegFile.readView, View.cell, hq]
      · simp only [View.covers, hq, if_true, Bool.not_eq_false, Bool.and_eq_true, decide_eq_true_eq] at hc
        simp [RegFile.writeView, RegFile.readView, View.cell, hq, BitVec.getLsbD_append, show ¬ k < 8 by omega,
          show k - 8 < 8 by omega, show 8 + (k - 8) = k by omega]
    | w q =>
      simp only [View.covers, decide_eq_false_iff_not, not_not] at hc
      simp [RegFile.writeView, RegFile.readView, View.cell]
    | d q => simp [RegFile.writeView, RegFile.readView, View.cell]

end Sys2Proof.Machine
end

