-- ==== Sys2Proof/Laws/Operands.lean ====
section
/-! SUPPORT. The operand list of every instruction (30_encoding.md R115), constructor by constructor: what its row's format gives is what its
meaning is applied to; and its mnemonic. -/

namespace Sys2Proof.Machine

theorem rawPlace_map8 (rm : RM Reg8) : rawPlace .w8 (rm.map Reg8.num) = rmPlace8 rm := by
  cases rm <;> simp [RM.map, rawPlace, rmPlace8]

theorem rawPlace_map (w : Width) (rm : RM Reg) : rawPlace w (rm.map Reg.num) = rmPlace w rm := by
  cases rm <;> rfl

theorem rawImm_immZ (w : Width) (v : ImmZ) : rawImm w v.imm = immZ w v := by cases v <;> rfl

theorem rawImm_byte (v : Byte) : rawImm .w8 (.b v) = v := BitVec.signExtend_eq v

theorem rawImm_half (v : BitVec 16) : rawImm .w16 (.w v) = v := BitVec.setWidth_eq v

/-- The descriptor of a relative transfer holds the target, resolved (30_encoding.md R114; 40_execution.md R161). -/
theorem descriptorOf_target {i : Instr} {disp : Word} (h : operandsOf i = .target disp) (eip : Word) :
    (descriptorOf i eip).operands = [⟨.w32, .imm (relTarget (eip + BitVec.ofNat 32 i.length) disp)⟩] := by
  simp only [descriptorOf, h, Operands.list]

/-! ## Shapes that several rows share -/

theorem shape_addRm8R8 (rm : RM Reg8) (r : Reg8) :
    Operands.two (rawPlace .w8 (rm.map Reg8.num)) (.place (.reg (viewOfNum .w8 r.num))) = Operands.two (rmPlace8 rm) (.place (.reg (.b r))) := by
  simp only [rawPlace_map8, viewOfNum_num8]

theorem shape_addRmR (p : Prefixes) (rm : RM Reg) (r : Reg) :
    Operands.two (rawPlace (opWidth p) (rm.map Reg.num)) (.place (.reg (regView (opWidth p) r))) = Operands.two (rmPlace (opWidth p) rm) (.place (.reg (regView (opWidth p) r))) := by
  simp only [rawPlace_map]

theorem shape_addR8Rm8 (r : Reg8) (rm : RM Reg8) :
    Operands.two (.reg (viewOfNum .w8 r.num)) (.place (rawPlace .w8 (rm.map Reg8.num))) = Operands.two (.reg (.b r)) (.place (rmPlace8 rm)) := by
  simp only [rawPlace_map8, viewOfNum_num8]

theorem shape_addRRm (p : Prefixes) (r : Reg) (rm : RM Reg) :
    Operands.two (.reg (regView (opWidth p) r)) (.place (rawPlace (opWidth p) (rm.map Reg.num))) = Operands.two (.reg (regView (opWidth p) r)) (.place (rmPlace (opWidth p) rm)) := by
  simp only [rawPlace_map]

theorem shape_addAlImm8 (v : Byte) :
    Operands.two (.reg (accum .w8)) (.imm (rawImm .w8 (.b v))) = Operands.two (.reg (accum .w8)) (.imm v) := by
  simp only [rawImm_byte]

theorem shape_addEaxImm (p : Prefixes) (v : ImmZ) :
    Operands.two (.reg (accum (opWidth p))) (.imm (rawImm (opWidth p) v.imm)) = Operands.two (.reg (accum (opWidth p))) (.imm (immZ (opWidth p) v)) := by
  simp only [rawImm_immZ]

theorem shape_addRm8Imm8 (rm : RM Reg8) (v : Byte) :
    Operands.two (rawPlace .w8 (rm.map Reg8.num)) (.imm (rawImm .w8 (.b v))) = Operands.two (rmPlace8 rm) (.imm v) := by
  simp only [rawPlace_map8, rawImm_byte]

theorem shape_addRmImm (p : Prefixes) (rm : RM Reg) (v : ImmZ) :
    Operands.two (rawPlace (opWidth p) (rm.map Reg.num)) (.imm (rawImm (opWidth p) v.imm)) = Operands.two (rmPlace (opWidth p) rm) (.imm (immZ (opWidth p) v)) := by
  simp only [rawPlace_map, rawImm_immZ]

theorem shape_addRmImm8 (p : Prefixes) (rm : RM Reg) (v : Byte) :
    Operands.two (rawPlace (opWidth p) (rm.map Reg.num)) (.imm (v.signExtend (opWidth p).bits)) = Operands.two (rmPlace (opWidth p) rm) (.imm (v.signExtend (opWidth p).bits)) := by
  simp only [rawPlace_map]

theorem shape_incRm8 (rm : RM Reg8) :
    Operands.one (rawPlace .w8 (rm.map Reg8.num)) = Operands.one (rmPlace8 rm) := by
  simp only [rawPlace_map8]

theorem shape_incRm (p : Prefixes) (rm : RM Reg) :
    Operands.one (rawPlace (opWidth p) (rm.map Reg.num)) = Operands.one (rmPlace (opWidth p) rm) := by
  simp only [rawPlace_map]

theorem shape_imulRRmImm (p : Prefixes) (r : Reg) (rm : RM Reg) (v : ImmZ) :
    Operands.three (.reg (regView (opWidth p) r)) (rawPlace (opWidth p) (rm.map Reg.num)) (.imm (rawImm (opWidth p) v.imm)) = Operands.three (.reg (regView (opWidth p) r)) (rmPlace (opWidth p) rm) (.imm (immZ (opWidth p) v)) := by
  simp only [rawPlace_map, rawImm_immZ]

theorem shape_imulRRmImm8 (p : Prefixes) (r : Reg) (rm : RM Reg) (v : Byte) :
    Operands.three (.reg (regView (opWidth p) r)) (rawPlace (opWidth p) (rm.map Reg.num)) (.imm (v.signExtend (opWidth p).bits)) = Operands.three (.reg (regView (opWidth p) r)) (rmPlace (opWidth p) rm) (.imm (v.signExtend (opWidth p).bits)) := by
  simp only [rawPlace_map]

theorem shape_movR8Imm8 (r : Reg8) (v : Byte) :
    Operands.two (.reg (viewOfNum .w8 r.num)) (.imm (rawImm .w8 (.b v))) = Operands.two (.reg (.b r)) (.imm v) := by
  simp only [rawImm_byte, viewOfNum_num8]

theorem shape_movRImm (p : Prefixes) (r : Reg) (v : ImmZ) :
    Operands.two (.reg (regView (opWidth p) r)) (.imm (rawImm (opWidth p) v.imm)) = Operands.two (.reg (regView (opWidth p) r)) (.imm (immZ (opWidth p) v)) := by
  simp only [rawImm_immZ]

theorem shape_movzxRRm8 (p : Prefixes) (r : Reg) (rm : RM Reg8) :
    Operands.widen (.reg (regView (opWidth p) r)) (rawPlace .w8 (rm.map Reg8.num)) = Operands.widen (.reg (regView (opWidth p) r)) (rmPlace8 rm) := by
  simp only [rawPlace_map8]

theorem shape_movzxRRm16 (p : Prefixes) (r : Reg) (rm : RM Reg) :
    Operands.widen (.reg (regView (opWidth p) r)) (rawPlace .w16 (rm.map Reg.num)) = Operands.widen (.reg (regView (opWidth p) r)) (rmPlace .w16 rm) := by
  simp only [rawPlace_map]

theorem shape_rolRm8Imm8 (rm : RM Reg8) (v : Byte) :
    Operands.byteSrc (rawPlace .w8 (rm.map Reg8.num)) (.imm (rawImm .w8 (.b v))) = Operands.byteSrc (rmPlace8 rm) (.imm v) := by
  simp only [rawPlace_map8, rawImm_byte]

theorem shape_rolRmImm8 (p : Prefixes) (rm : RM Reg) (v : Byte) :
    Operands.byteSrc (rawPlace (opWidth p) (rm.map Reg.num)) (.imm (rawImm .w8 (.b v))) = Operands.byteSrc (rmPlace (opWidth p) rm) (.imm v) := by
  simp only [rawPlace_map, rawImm_byte]

theorem shape_rolRm8One (rm : RM Reg8) :
    Operands.byteSrc (rawPlace .w8 (rm.map Reg8.num)) (.imm 1#8) = Operands.byteSrc (rmPlace8 rm) (.imm 1#8) := by
  simp only [rawPlace_map8]

theorem shape_rolRmOne (p : Prefixes) (rm : RM Reg) :
    Operands.byteSrc (rawPlace (opWidth p) (rm.map Reg.num)) (.imm 1#8) = Operands.byteSrc (rmPlace (opWidth p) rm) (.imm 1#8) := by
  simp only [rawPlace_map]

theorem shape_rolRm8Cl (rm : RM Reg8) :
    Operands.byteSrc (rawPlace .w8 (rm.map Reg8.num)) (.place (.reg (.b .cl))) = Operands.byteSrc (rmPlace8 rm) (.place (.reg (.b .cl))) := by
  simp only [rawPlace_map8]

theorem shape_rolRmCl (p : Prefixes) (rm : RM Reg) :
    Operands.byteSrc (rawPlace (opWidth p) (rm.map Reg.num)) (.place (.reg (.b .cl))) = Operands.byteSrc (rmPlace (opWidth p) rm) (.place (.reg (.b .cl))) := by
  simp only [rawPlace_map]

theorem shape_callRm32 (rm : RM Reg) :
    Operands.one (rawPlace .w32 (rm.map Reg.num)) = Operands.one (rmPlace .w32 rm) := by
  simp only [rawPlace_map]

/-! ## Every row -/

@[simp] theorem operandsOf_addRm8R8 (p : Prefixes) (rm : RM Reg8) (r : Reg8) :
    operandsOf (.addRm8R8 p rm r) = .two (rmPlace8 rm) (.place (.reg (.b r))) := shape_addRm8R8 rm r
@[simp] theorem operandsOf_addRmR (p : Prefixes) (rm : RM Reg) (r : Reg) :
    operandsOf (.addRmR p rm r) = .two (rmPlace (opWidth p) rm) (.place (.reg (regView (opWidth p) r))) := shape_addRmR p rm r
@[simp] theorem operandsOf_addR8Rm8 (p : Prefixes) (r : Reg8) (rm : RM Reg8) :
    operandsOf (.addR8Rm8 p r rm) = .two (.reg (.b r)) (.place (rmPlace8 rm)) := shape_addR8Rm8 r rm
@[simp] theorem operandsOf_addRRm (p : Prefixes) (r : Reg) (rm : RM Reg) :
    operandsOf (.addRRm p r rm) = .two (.reg (regView (opWidth p) r)) (.place (rmPlace (opWidth p) rm)) := shape_addRRm p r rm
@[simp] theorem operandsOf_addAlImm8 (p : Prefixes) (v : Byte) :
    operandsOf (.addAlImm8 p v) = .two (.reg (accum .w8)) (.imm v) := shape_addAlImm8 v
@[simp] theorem operandsOf_addEaxImm (p : Prefixes) (v : ImmZ) :
    operandsOf (.addEaxImm p v) = .two (.reg (accum (opWidth p))) (.imm (immZ (opWidth p) v)) := shape_addEaxImm p v
@[simp] theorem operandsOf_addRm8Imm8 (p : Prefixes) (rm : RM Reg8) (v : Byte) :
    operandsOf (.addRm8Imm8 p rm v) = .two (rmPlace8 rm) (.imm v) := shape_addRm8Imm8 rm v
@[simp] theorem operandsOf_addRmImm (p : Prefixes) (rm : RM Reg) (v : ImmZ) :
    operandsOf (.addRmImm p rm v) = .two (rmPlace (opWidth p) rm) (.imm (immZ (opWidth p) v)) := shape_addRmImm p rm v
@[simp] theorem operandsOf_addRmImm8 (p : Prefixes) (rm : RM Reg) (v : Byte) :
    operandsOf (.addRmImm8 p rm v) = .two (rmPlace (opWidth p) rm) (.imm (v.signExtend (opWidth p).bits)) := shape_addRmImm8 p rm v
@[simp] theorem operandsOf_orRm8R8 (p : Prefixes) (rm : RM Reg8) (r : Reg8) :
    operandsOf (.orRm8R8 p rm r) = .two (rmPlace8 rm) (.place (.reg (.b r))) := shape_addRm8R8 rm r
@[simp] theorem operandsOf_orRmR (p : Prefixes) (rm : RM Reg) (r : Reg) :
    operandsOf (.orRmR p rm r) = .two (rmPlace (opWidth p) rm) (.place (.reg (regView (opWidth p) r))) := shape_addRmR p rm r
@[simp] theorem operandsOf_orR8Rm8 (p : Prefixes) (r : Reg8) (rm : RM Reg8) :
    operandsOf (.orR8Rm8 p r rm) = .two (.reg (.b r)) (.place (rmPlace8 rm)) := shape_addR8Rm8 r rm
@[simp] theorem operandsOf_orRRm (p : Prefixes) (r : Reg) (rm : RM Reg) :
    operandsOf (.orRRm p r rm) = .two (.reg (regView (opWidth p) r)) (.place (rmPlace (opWidth p) rm)) := shape_addRRm p r rm
@[simp] theorem operandsOf_orAlImm8 (p : Prefixes) (v : Byte) :
    operandsOf (.orAlImm8 p v) = .two (.reg (accum .w8)) (.imm v) := shape_addAlImm8 v
@[simp] theorem operandsOf_orEaxImm (p : Prefixes) (v : ImmZ) :
    operandsOf (.orEaxImm p v) = .two (.reg (accum (opWidth p))) (.imm (immZ (opWidth p) v)) := shape_addEaxImm p v
@[simp] theorem operandsOf_orRm8Imm8 (p : Prefixes) (rm : RM Reg8) (v : Byte) :
    operandsOf (.orRm8Imm8 p rm v) = .two (rmPlace8 rm) (.imm v) := shape_addRm8Imm8 rm v
@[simp] theorem operandsOf_orRmImm (p : Prefixes) (rm : RM Reg) (v : ImmZ) :
    operandsOf (.orRmImm p rm v) = .two (rmPlace (opWidth p) rm) (.imm (immZ (opWidth p) v)) := shape_addRmImm p rm v
@[simp] theorem operandsOf_orRmImm8 (p : Prefixes) (rm : RM Reg) (v : Byte) :
    operandsOf (.orRmImm8 p rm v) = .two (rmPlace (opWidth p) rm) (.imm (v.signExtend (opWidth p).bits)) := shape_addRmImm8 p rm v
@[simp] theorem operandsOf_adcRm8R8 (p : Prefixes) (rm : RM Reg8) (r : Reg8) :
    operandsOf (.adcRm8R8 p rm r) = .two (rmPlace8 rm) (.place (.reg (.b r))) := shape_addRm8R8 rm r
@[simp] theorem operandsOf_adcRmR (p : Prefixes) (rm : RM Reg) (r : Reg) :
    operandsOf (.adcRmR p rm r) = .two (rmPlace (opWidth p) rm) (.place (.reg (regView (opWidth p) r))) := shape_addRmR p rm r
@[simp] theorem operandsOf_adcR8Rm8 (p : Prefixes) (r : Reg8) (rm : RM Reg8) :
    operandsOf (.adcR8Rm8 p r rm) = .two (.reg (.b r)) (.place (rmPlace8 rm)) := shape_addR8Rm8 r rm
@[simp] theorem operandsOf_adcRRm (p : Prefixes) (r : Reg) (rm : RM Reg) :
    operandsOf (.adcRRm p r rm) = .two (.reg (regView (opWidth p) r)) (.place (rmPlace (opWidth p) rm)) := shape_addRRm p r rm
@[simp] theorem operandsOf_adcAlImm8 (p : Prefixes) (v : Byte) :
    operandsOf (.adcAlImm8 p v) = .two (.reg (accum .w8)) (.imm v) := shape_addAlImm8 v
@[simp] theorem operandsOf_adcEaxImm (p : Prefixes) (v : ImmZ) :
    operandsOf (.adcEaxImm p v) = .two (.reg (accum (opWidth p))) (.imm (immZ (opWidth p) v)) := shape_addEaxImm p v
@[simp] theorem operandsOf_adcRm8Imm8 (p : Prefixes) (rm : RM Reg8) (v : Byte) :
    operandsOf (.adcRm8Imm8 p rm v) = .two (rmPlace8 rm) (.imm v) := shape_addRm8Imm8 rm v
@[simp] theorem operandsOf_adcRmImm (p : Prefixes) (rm : RM Reg) (v : ImmZ) :
    operandsOf (.adcRmImm p rm v) = .two (rmPlace (opWidth p) rm) (.imm (immZ (opWidth p) v)) := shape_addRmImm p rm v
@[simp] theorem operandsOf_adcRmImm8 (p : Prefixes) (rm : RM Reg) (v : Byte) :
    operandsOf (.adcRmImm8 p rm v) = .two (rmPlace (opWidth p) rm) (.imm (v.signExtend (opWidth p).bits)) := shape_addRmImm8 p rm v
@[simp] theorem operandsOf_sbbRm8R8 (p : Prefixes) (rm : RM Reg8) (r : Reg8) :
    operandsOf (.sbbRm8R8 p rm r) = .two (rmPlace8 rm) (.place (.reg (.b r))) := shape_addRm8R8 rm r
@[simp] theorem operandsOf_sbbRmR (p : Prefixes) (rm : RM Reg) (r : Reg) :
    operandsOf (.sbbRmR p rm r) = .two (rmPlace (opWidth p) rm) (.place (.reg (regView (opWidth p) r))) := shape_addRmR p rm r
@[simp] theorem operandsOf_sbbR8Rm8 (p : Prefixes) (r : Reg8) (rm : RM Reg8) :
    operandsOf (.sbbR8Rm8 p r rm) = .two (.reg (.b r)) (.place (rmPlace8 rm)) := shape_addR8Rm8 r rm
@[simp] theorem operandsOf_sbbRRm (p : Prefixes) (r : Reg) (rm : RM Reg) :
    operandsOf (.sbbRRm p r rm) = .two (.reg (regView (opWidth p) r)) (.place (rmPlace (opWidth p) rm)) := shape_addRRm p r rm
@[simp] theorem operandsOf_sbbAlImm8 (p : Prefixes) (v : Byte) :
    operandsOf (.sbbAlImm8 p v) = .two (.reg (accum .w8)) (.imm v) := shape_addAlImm8 v
@[simp] theorem operandsOf_sbbEaxImm (p : Prefixes) (v : ImmZ) :
    operandsOf (.sbbEaxImm p v) = .two (.reg (accum (opWidth p))) (.imm (immZ (opWidth p) v)) := shape_addEaxImm p v
@[simp] theorem operandsOf_sbbRm8Imm8 (p : Prefixes) (rm : RM Reg8) (v : Byte) :
    operandsOf (.sbbRm8Imm8 p rm v) = .two (rmPlace8 rm) (.imm v) := shape_addRm8Imm8 rm v
@[simp] theorem operandsOf_sbbRmImm (p : Prefixes) (rm : RM Reg) (v : ImmZ) :
    operandsOf (.sbbRmImm p rm v) = .two (rmPlace (opWidth p) rm) (.imm (immZ (opWidth p) v)) := shape_addRmImm p rm v
@[simp] theorem operandsOf_sbbRmImm8 (p : Prefixes) (rm : RM Reg) (v : Byte) :
    operandsOf (.sbbRmImm8 p rm v) = .two (rmPlace (opWidth p) rm) (.imm (v.signExtend (opWidth p).bits)) := shape_addRmImm8 p rm v
@[simp] theorem operandsOf_andRm8R8 (p : Prefixes) (rm : RM Reg8) (r : Reg8) :
    operandsOf (.andRm8R8 p rm r) = .two (rmPlace8 rm) (.place (.reg (.b r))) := shape_addRm8R8 rm r
@[simp] theorem operandsOf_andRmR (p : Prefixes) (rm : RM Reg) (r : Reg) :
    operandsOf (.andRmR p rm r) = .two (rmPlace (opWidth p) rm) (.place (.reg (regView (opWidth p) r))) := shape_addRmR p rm r
@[simp] theorem operandsOf_andR8Rm8 (p : Prefixes) (r : Reg8) (rm : RM Reg8) :
    operandsOf (.andR8Rm8 p r rm) = .two (.reg (.b r)) (.place (rmPlace8 rm)) := shape_addR8Rm8 r rm
@[simp] theorem operandsOf_andRRm (p : Prefixes) (r : Reg) (rm : RM Reg) :
    operandsOf (.andRRm p r rm) = .two (.reg (regView (opWidth p) r)) (.place (rmPlace (opWidth p) rm)) := shape_addRRm p r rm
@[simp] theorem operandsOf_andAlImm8 (p : Prefixes) (v : Byte) :
    operandsOf (.andAlImm8 p v) = .two (.reg (accum .w8)) (.imm v) := shape_addAlImm8 v
@[simp] theorem operandsOf_andEaxImm (p : Prefixes) (v : ImmZ) :
    operandsOf (.andEaxImm p v) = .two (.reg (accum (opWidth p))) (.imm (immZ (opWidth p) v)) := shape_addEaxImm p v
@[simp] theorem operandsOf_andRm8Imm8 (p : Prefixes) (rm : RM Reg8) (v : Byte) :
    operandsOf (.andRm8Imm8 p rm v) = .two (rmPlace8 rm) (.imm v) := shape_addRm8Imm8 rm v
@[simp] theorem operandsOf_andRmImm (p : Prefixes) (rm : RM Reg) (v : ImmZ) :
    operandsOf (.andRmImm p rm v) = .two (rmPlace (opWidth p) rm) (.imm (immZ (opWidth p) v)) := shape_addRmImm p rm v
@[simp] theorem operandsOf_andRmImm8 (p : Prefixes) (rm : RM Reg) (v : Byte) :
    operandsOf (.andRmImm8 p rm v) = .two (rmPlace (opWidth p) rm) (.imm (v.signExtend (opWidth p).bits)) := shape_addRmImm8 p rm v
@[simp] theorem operandsOf_subRm8R8 (p : Prefixes) (rm : RM Reg8) (r : Reg8) :
    operandsOf (.subRm8R8 p rm r) = .two (rmPlace8 rm) (.place (.reg (.b r))) := shape_addRm8R8 rm r
@[simp] theorem operandsOf_subRmR (p : Prefixes) (rm : RM Reg) (r : Reg) :
    operandsOf (.subRmR p rm r) = .two (rmPlace (opWidth p) rm) (.place (.reg (regView (opWidth p) r))) := shape_addRmR p rm r
@[simp] theorem operandsOf_subR8Rm8 (p : Prefixes) (r : Reg8) (rm : RM Reg8) :
    operandsOf (.subR8Rm8 p r rm) = .two (.reg (.b r)) (.place (rmPlace8 rm)) := shape_addR8Rm8 r rm
@[simp] theorem operandsOf_subRRm (p : Prefixes) (r : Reg) (rm : RM Reg) :
    operandsOf (.subRRm p r rm) = .two (.reg (regView (opWidth p) r)) (.place (rmPlace (opWidth p) rm)) := shape_addRRm p r rm
@[simp] theorem operandsOf_subAlImm8 (p : Prefixes) (v : Byte) :
    operandsOf (.subAlImm8 p v) = .two (.reg (accum .w8)) (.imm v) := shape_addAlImm8 v
@[simp] theorem operandsOf_subEaxImm (p : Prefixes) (v : ImmZ) :
    operandsOf (.subEaxImm p v) = .two (.reg (accum (opWidth p))) (.imm (immZ (opWidth p) v)) := shape_addEaxImm p v
@[simp] theorem operandsOf_subRm8Imm8 (p : Prefixes) (rm : RM Reg8) (v : Byte) :
    operandsOf (.subRm8Imm8 p rm v) = .two (rmPlace8 rm) (.imm v) := shape_addRm8Imm8 rm v
@[simp] theorem operandsOf_subRmImm (p : Prefixes) (rm : RM Reg) (v : ImmZ) :
    operandsOf (.subRmImm p rm v) = .two (rmPlace (opWidth p) rm) (.imm (immZ (opWidth p) v)) := shape_addRmImm p rm v
@[simp] theorem operandsOf_subRmImm8 (p : Prefixes) (rm : RM Reg) (v : Byte) :
    operandsOf (.subRmImm8 p rm v) = .two (rmPlace (opWidth p) rm) (.imm (v.signExtend (opWidth p).bits)) := shape_addRmImm8 p rm v
@[simp] theorem operandsOf_xorRm8R8 (p : Prefixes) (rm : RM Reg8) (r : Reg8) :
    operandsOf (.xorRm8R8 p rm r) = .two (rmPlace8 rm) (.place (.reg (.b r))) := shape_addRm8R8 rm r
@[simp] theorem operandsOf_xorRmR (p : Prefixes) (rm : RM Reg) (r : Reg) :
    operandsOf (.xorRmR p rm r) = .two (rmPlace (opWidth p) rm) (.place (.reg (regView (opWidth p) r))) := shape_addRmR p rm r
@[simp] theorem operandsOf_xorR8Rm8 (p : Prefixes) (r : Reg8) (rm : RM Reg8) :
    operandsOf (.xorR8Rm8 p r rm) = .two (.reg (.b r)) (.place (rmPlace8 rm)) := shape_addR8Rm8 r rm
@[simp] theorem operandsOf_xorRRm (p : Prefixes) (r : Reg) (rm : RM Reg) :
    operandsOf (.xorRRm p r rm) = .two (.reg (regView (opWidth p) r)) (.place (rmPlace (opWidth p) rm)) := shape_addRRm p r rm
@[simp] theorem operandsOf_xorAlImm8 (p : Prefixes) (v : Byte) :
    operandsOf (.xorAlImm8 p v) = .two (.reg (accum .w8)) (.imm v) := shape_addAlImm8 v
@[simp] theorem operandsOf_xorEaxImm (p : Prefixes) (v : ImmZ) :
    operandsOf (.xorEaxImm p v) = .two (.reg (accum (opWidth p))) (.imm (immZ (opWidth p) v)) := shape_addEaxImm p v
@[simp] theorem operandsOf_xorRm8Imm8 (p : Prefixes) (rm : RM Reg8) (v : Byte) :
    operandsOf (.xorRm8Imm8 p rm v) = .two (rmPlace8 rm) (.imm v) := shape_addRm8Imm8 rm v
@[simp] theorem operandsOf_xorRmImm (p : Prefixes) (rm : RM Reg) (v : ImmZ) :
    operandsOf (.xorRmImm p rm v) = .two (rmPlace (opWidth p) rm) (.imm (immZ (opWidth p) v)) := shape_addRmImm p rm v
@[simp] theorem operandsOf_xorRmImm8 (p : Prefixes) (rm : RM Reg) (v : Byte) :
    operandsOf (.xorRmImm8 p rm v) = .two (rmPlace (opWidth p) rm) (.imm (v.signExtend (opWidth p).bits)) := shape_addRmImm8 p rm v
@[simp] theorem operandsOf_cmpRm8R8 (p : Prefixes) (rm : RM Reg8) (r : Reg8) :
    operandsOf (.cmpRm8R8 p rm r) = .two (rmPlace8 rm) (.place (.reg (.b r))) := shape_addRm8R8 rm r
@[simp] theorem operandsOf_cmpRmR (p : Prefixes) (rm : RM Reg) (r : Reg) :
    operandsOf (.cmpRmR p rm r) = .two (rmPlace (opWidth p) rm) (.place (.reg (regView (opWidth p) r))) := shape_addRmR p rm r
@[simp] theorem operandsOf_cmpR8Rm8 (p : Prefixes) (r : Reg8) (rm : RM Reg8) :
    operandsOf (.cmpR8Rm8 p r rm) = .two (.reg (.b r)) (.place (rmPlace8 rm)) := shape_addR8Rm8 r rm
@[simp] theorem operandsOf_cmpRRm (p : Prefixes) (r : Reg) (rm : RM Reg) :
    operandsOf (.cmpRRm p r rm) = .two (.reg (regView (opWidth p) r)) (.place (rmPlace (opWidth p) rm)) := shape_addRRm p r rm
@[simp] theorem operandsOf_cmpAlImm8 (p : Prefixes) (v : Byte) :
    operandsOf (.cmpAlImm8 p v) = .two (.reg (accum .w8)) (.imm v) := shape_addAlImm8 v
@[simp] theorem operandsOf_cmpEaxImm (p : Prefixes) (v : ImmZ) :
    operandsOf (.cmpEaxImm p v) = .two (.reg (accum (opWidth p))) (.imm (immZ (opWidth p) v)) := shape_addEaxImm p v
@[simp] theorem operandsOf_cmpRm8Imm8 (p : Prefixes) (rm : RM Reg8) (v : Byte) :
    operandsOf (.cmpRm8Imm8 p rm v) = .two (rmPlace8 rm) (.imm v) := shape_addRm8Imm8 rm v
@[simp] theorem operandsOf_cmpRmImm (p : Prefixes) (rm : RM Reg) (v : ImmZ) :
    operandsOf (.cmpRmImm p rm v) = .two (rmPlace (opWidth p) rm) (.imm (immZ (opWidth p) v)) := shape_addRmImm p rm v
@[simp] theorem operandsOf_cmpRmImm8 (p : Prefixes) (rm : RM Reg) (v : Byte) :
    operandsOf (.cmpRmImm8 p rm v) = .two (rmPlace (opWidth p) rm) (.imm (v.signExtend (opWidth p).bits)) := shape_addRmImm8 p rm v
@[simp] theorem operandsOf_incR (p : Prefixes) (r : Reg) :
    operandsOf (.incR p r) = .one (.reg (regView (opWidth p) r)) := rfl
@[simp] theorem operandsOf_decR (p : Prefixes) (r : Reg) :
    operandsOf (.decR p r) = .one (.reg (regView (opWidth p) r)) := rfl
@[simp] theorem operandsOf_incRm8 (p : Prefixes) (rm : RM Reg8) :
    operandsOf (.incRm8 p rm) = .one (rmPlace8 rm) := shape_incRm8 rm
@[simp] theorem operandsOf_decRm8 (p : Prefixes) (rm : RM Reg8) :
    operandsOf (.decRm8 p rm) = .one (rmPlace8 rm) := shape_incRm8 rm
@[simp] theorem operandsOf_incRm (p : Prefixes) (rm : RM Reg) :
    operandsOf (.incRm p rm) = .one (rmPlace (opWidth p) rm) := shape_incRm p rm
@[simp] theorem operandsOf_decRm (p : Prefixes) (rm : RM Reg) :
    operandsOf (.decRm p rm) = .one (rmPlace (opWidth p) rm) := shape_incRm p rm
@[simp] theorem operandsOf_testRm8Imm8 (p : Prefixes) (rm : RM Reg8) (v : Byte) :
    operandsOf (.testRm8Imm8 p rm v) = .two (rmPlace8 rm) (.imm v) := shape_addRm8Imm8 rm v
@[simp] theorem operandsOf_notRm8 (p : Prefixes) (rm : RM Reg8) :
    operandsOf (.notRm8 p rm) = .one (rmPlace8 rm) := shape_incRm8 rm
@[simp] theorem operandsOf_negRm8 (p : Prefixes) (rm : RM Reg8) :
    operandsOf (.negRm8 p rm) = .one (rmPlace8 rm) := shape_incRm8 rm
@[simp] theorem operandsOf_mulRm8 (p : Prefixes) (rm : RM Reg8) :
    operandsOf (.mulRm8 p rm) = .one (rmPlace8 rm) := shape_incRm8 rm
@[simp] theorem operandsOf_imulRm8 (p : Prefixes) (rm : RM Reg8) :
    operandsOf (.imulRm8 p rm) = .one (rmPlace8 rm) := shape_incRm8 rm
@[simp] theorem operandsOf_divRm8 (p : Prefixes) (rm : RM Reg8) :
    operandsOf (.divRm8 p rm) = .one (rmPlace8 rm) := shape_incRm8 rm
@[simp] theorem operandsOf_idivRm8 (p : Prefixes) (rm : RM Reg8) :
    operandsOf (.idivRm8 p rm) = .one (rmPlace8 rm) := shape_incRm8 rm
@[simp] theorem operandsOf_testRmImm (p : Prefixes) (rm : RM Reg) (v : ImmZ) :
    operandsOf (.testRmImm p rm v) = .two (rmPlace (opWidth p) rm) (.imm (immZ (opWidth p) v)) := shape_addRmImm p rm v
@[simp] theorem operandsOf_notRm (p : Prefixes) (rm : RM Reg) :
    operandsOf (.notRm p rm) = .one (rmPlace (opWidth p) rm) := shape_incRm p rm
@[simp] theorem operandsOf_negRm (p : Prefixes) (rm : RM Reg) :
    operandsOf (.negRm p rm) = .one (rmPlace (opWidth p) rm) := shape_incRm p rm
@[simp] theorem operandsOf_mulRm (p : Prefixes) (rm : RM Reg) :
    operandsOf (.mulRm p rm) = .one (rmPlace (opWidth p) rm) := shape_incRm p rm
@[simp] theorem operandsOf_imulRm (p : Prefixes) (rm : RM Reg) :
    operandsOf (.imulRm p rm) = .one (rmPlace (opWidth p) rm) := shape_incRm p rm
@[simp] theorem operandsOf_divRm (p : Prefixes) (rm : RM Reg) :
    operandsOf (.divRm p rm) = .one (rmPlace (opWidth p) rm) := shape_incRm p rm
@[simp] theorem operandsOf_idivRm (p : Prefixes) (rm : RM Reg) :
    operandsOf (.idivRm p rm) = .one (rmPlace (opWidth p) rm) := shape_incRm p rm
@[simp] theorem operandsOf_imulRRm (p : Prefixes) (r : Reg) (rm : RM Reg) :
    operandsOf (.imulRRm p r rm) = .two (.reg (regView (opWidth p) r)) (.place (rmPlace (opWidth p) rm)) := shape_addRRm p r rm
@[simp] theorem operandsOf_imulRRmImm (p : Prefixes) (r : Reg) (rm : RM Reg) (v : ImmZ) :
    operandsOf (.imulRRmImm p r rm v) = .three (.reg (regView (opWidth p) r)) (rmPlace (opWidth p) rm) (.imm (immZ (opWidth p) v)) := shape_imulRRmImm p r rm v
@[simp] theorem operandsOf_imulRRmImm8 (p : Prefixes) (r : Reg) (rm : RM Reg) (v : Byte) :
    operandsOf (.imulRRmImm8 p r rm v) = .three (.reg (regView (opWidth p) r)) (rmPlace (opWidth p) rm) (.imm (v.signExtend (opWidth p).bits)) := shape_imulRRmImm8 p r rm v
@[simp] theorem operandsOf_testRm8R8 (p : Prefixes) (rm : RM Reg8) (r : Reg8) :
    operandsOf (.testRm8R8 p rm r) = .two (rmPlace8 rm) (.place (.reg (.b r))) := shape_addRm8R8 rm r
@[simp] theorem operandsOf_testRmR (p : Prefixes) (rm : RM Reg) (r : Reg) :
    operandsOf (.testRmR p rm r) = .two (rmPlace (opWidth p) rm) (.place (.reg (regView (opWidth p) r))) := shape_addRmR p rm r
@[simp] theorem operandsOf_testAlImm8 (p : Prefixes) (v : Byte) :
    operandsOf (.testAlImm8 p v) = .two (.reg (accum .w8)) (.imm v) := shape_addAlImm8 v
@[simp] theorem operandsOf_testEaxImm (p : Prefixes) (v : ImmZ) :
    operandsOf (.testEaxImm p v) = .two (.reg (accum (opWidth p))) (.imm (immZ (opWidth p) v)) := shape_addEaxImm p v
@[simp] theorem operandsOf_movRm8R8 (p : Prefixes) (rm : RM Reg8) (r : Reg8) :
    operandsOf (.movRm8R8 p rm r) = .two (rmPlace8 rm) (.place (.reg (.b r))) := shape_addRm8R8 rm r
@[simp] theorem operandsOf_movRmR (p : Prefixes) (rm : RM Reg) (r : Reg) :
    operandsOf (.movRmR p rm r) = .two (rmPlace (opWidth p) rm) (.place (.reg (regView (opWidth p) r))) := shape_addRmR p rm r
@[simp] theorem operandsOf_movR8Rm8 (p : Prefixes) (r : Reg8) (rm : RM Reg8) :
    operandsOf (.movR8Rm8 p r rm) = .two (.reg (.b r)) (.place (rmPlace8 rm)) := shape_addR8Rm8 r rm
@[simp] theorem operandsOf_movRRm (p : Prefixes) (r : Reg) (rm : RM Reg) :
    operandsOf (.movRRm p r rm) = .two (.reg (regView (opWidth p) r)) (.place (rmPlace (opWidth p) rm)) := shape_addRRm p r rm
@[simp] theorem operandsOf_movR8Imm8 (p : Prefixes) (r : Reg8) (v : Byte) :
    operandsOf (.movR8Imm8 p r v) = .two (.reg (.b r)) (.imm v) := shape_movR8Imm8 r v
@[simp] theorem operandsOf_movRImm (p : Prefixes) (r : Reg) (v : ImmZ) :
    operandsOf (.movRImm p r v) = .two (.reg (regView (opWidth p) r)) (.imm (immZ (opWidth p) v)) := shape_movRImm p r v
@[simp] theorem operandsOf_movRm8Imm8 (p : Prefixes) (rm : RM Reg8) (v : Byte) :
    operandsOf (.movRm8Imm8 p rm v) = .two (rmPlace8 rm) (.imm v) := shape_addRm8Imm8 rm v
@[simp] theorem operandsOf_movRmImm (p : Prefixes) (rm : RM Reg) (v : ImmZ) :
    operandsOf (.movRmImm p rm v) = .two (rmPlace (opWidth p) rm) (.imm (immZ (opWidth p) v)) := shape_addRmImm p rm v
@[simp] theorem operandsOf_movAlMoffs (p : Prefixes) (d : Word) :
    operandsOf (.movAlMoffs p d) = .two (.reg (accum .w8)) (.place (.mem (eaAbs d))) := rfl
@[simp] theorem operandsOf_movEaxMoffs (p : Prefixes) (d : Word) :
    operandsOf (.movEaxMoffs p d) = .two (.reg (accum (opWidth p))) (.place (.mem (eaAbs d))) := rfl
@[simp] theorem operandsOf_movMoffsAl (p : Prefixes) (d : Word) :
    operandsOf (.movMoffsAl p d) = .two (.mem (eaAbs d)) (.place (.reg (accum .w8))) := rfl
@[simp] theorem operandsOf_movMoffsEax (p : Prefixes) (d : Word) :
    operandsOf (.movMoffsEax p d) = .two (.mem (eaAbs d)) (.place (.reg (accum (opWidth p)))) := rfl
@[simp] theorem operandsOf_leaRM (p : Prefixes) (r : Reg) (m : Mem) :
    operandsOf (.leaRM p r m) = .two (.reg (regView (opWidth p) r)) (.place (.mem (eaOf m))) := rfl
@[simp] theorem operandsOf_movzxRRm8 (p : Prefixes) (r : Reg) (rm : RM Reg8) :
    operandsOf (.movzxRRm8 p r rm) = .widen (.reg (regView (opWidth p) r)) (rmPlace8 rm) := shape_movzxRRm8 p r rm
@[simp] theorem operandsOf_movzxRRm16 (p : Prefixes) (r : Reg) (rm : RM Reg) :
    operandsOf (.movzxRRm16 p r rm) = .widen (.reg (regView (opWidth p) r)) (rmPlace .w16 rm) := shape_movzxRRm16 p r rm
@[simp] theorem operandsOf_movsxRRm8 (p : Prefixes) (r : Reg) (rm : RM Reg8) :
    operandsOf (.movsxRRm8 p r rm) = .widen (.reg (regView (opWidth p) r)) (rmPlace8 rm) := shape_movzxRRm8 p r rm
@[simp] theorem operandsOf_movsxRRm16 (p : Prefixes) (r : Reg) (rm : RM Reg) :
    operandsOf (.movsxRRm16 p r rm) = .widen (.reg (regView (opWidth p) r)) (rmPlace .w16 rm) := shape_movzxRRm16 p r rm
@[simp] theorem operandsOf_cbw (p : Prefixes) :
    operandsOf (.cbw p) = .none := rfl
@[simp] theorem operandsOf_cwde (p : Prefixes) :
    operandsOf (.cwde p) = .none := rfl
@[simp] theorem operandsOf_cwd (p : Prefixes) :
    operandsOf (.cwd p) = .none := rfl
@[simp] theorem operandsOf_cdq (p : Prefixes) :
    operandsOf (.cdq p) = .none := rfl
@[simp] theorem operandsOf_cmpsb (p : Prefixes) :
    operandsOf (.cmpsb p) = .none := rfl
@[simp] theorem operandsOf_cmpsw (p : Prefixes) :
    operandsOf (.cmpsw p) = .none := rfl
@[simp] theorem operandsOf_cmpsd (p : Prefixes) :
    operandsOf (.cmpsd p) = .none := rfl
@[simp] theorem operandsOf_clc (p : Prefixes) :
    operandsOf (.clc p) = .none := rfl
@[simp] theorem operandsOf_stc (p : Prefixes) :
    operandsOf (.stc p) = .none := rfl
@[simp] theorem operandsOf_cmc (p : Prefixes) :
    operandsOf (.cmc p) = .none := rfl
@[simp] theorem operandsOf_cld (p : Prefixes) :
    operandsOf (.cld p) = .none := rfl
@[simp] theorem operandsOf_std (p : Prefixes) :
    operandsOf (.std p) = .none := rfl
@[simp] theorem operandsOf_aamImm8 (p : Prefixes) (v : Byte) :
    operandsOf (.aamImm8 p v) = .imm (w := .w8) v := congrArg (Operands.imm (w := .w8)) (rawImm_byte v)
@[simp] theorem operandsOf_aadImm8 (p : Prefixes) (v : Byte) :
    operandsOf (.aadImm8 p v) = .imm (w := .w8) v := congrArg (Operands.imm (w := .w8)) (rawImm_byte v)
@[simp] theorem operandsOf_rolRm8Imm8 (p : Prefixes) (rm : RM Reg8) (v : Byte) :
    operandsOf (.rolRm8Imm8 p rm v) = .byteSrc (rmPlace8 rm) (.imm v) := shape_rolRm8Imm8 rm v
@[simp] theorem operandsOf_rolRmImm8 (p : Prefixes) (rm : RM Reg) (v : Byte) :
    operandsOf (.rolRmImm8 p rm v) = .byteSrc (rmPlace (opWidth p) rm) (.imm v) := shape_rolRmImm8 p rm v
@[simp] theorem operandsOf_rolRm8One (p : Prefixes) (rm : RM Reg8) :
    operandsOf (.rolRm8One p rm) = .byteSrc (rmPlace8 rm) (.imm 1#8) := shape_rolRm8One rm
@[simp] theorem operandsOf_rolRmOne (p : Prefixes) (rm : RM Reg) :
    operandsOf (.rolRmOne p rm) = .byteSrc (rmPlace (opWidth p) rm) (.imm 1#8) := shape_rolRmOne p rm
@[simp] theorem operandsOf_rolRm8Cl (p : Prefixes) (rm : RM Reg8) :
    operandsOf (.rolRm8Cl p rm) = .byteSrc (rmPlace8 rm) (.place (.reg (.b .cl))) := shape_rolRm8Cl rm
@[simp] theorem operandsOf_rolRmCl (p : Prefixes) (rm : RM Reg) :
    operandsOf (.rolRmCl p rm) = .byteSrc (rmPlace (opWidth p) rm) (.place (.reg (.b .cl))) := shape_rolRmCl p rm
@[simp] theorem operandsOf_rorRm8Imm8 (p : Prefixes) (rm : RM Reg8) (v : Byte) :
    operandsOf (.rorRm8Imm8 p rm v) = .byteSrc (rmPlace8 rm) (.imm v) := shape_rolRm8Imm8 rm v
@[simp] theorem operandsOf_rorRmImm8 (p : Prefixes) (rm : RM Reg) (v : Byte) :
    operandsOf (.rorRmImm8 p rm v) = .byteSrc (rmPlace (opWidth p) rm) (.imm v) := shape_rolRmImm8 p rm v
@[simp] theorem operandsOf_rorRm8One (p : Prefixes) (rm : RM Reg8) :
    operandsOf (.rorRm8One p rm) = .byteSrc (rmPlace8 rm) (.imm 1#8) := shape_rolRm8One rm
@[simp] theorem operandsOf_rorRmOne (p : Prefixes) (rm : RM Reg) :
    operandsOf (.rorRmOne p rm) = .byteSrc (rmPlace (opWidth p) rm) (.imm 1#8) := shape_rolRmOne p rm
@[simp] theorem operandsOf_rorRm8Cl (p : Prefixes) (rm : RM Reg8) :
    operandsOf (.rorRm8Cl p rm) = .byteSrc (rmPlace8 rm) (.place (.reg (.b .cl))) := shape_rolRm8Cl rm
@[simp] theorem operandsOf_rorRmCl (p : Prefixes) (rm : RM Reg) :
    operandsOf (.rorRmCl p rm) = .byteSrc (rmPlace (opWidth p) rm) (.place (.reg (.b .cl))) := shape_rolRmCl p rm
@[simp] theorem operandsOf_rclRm8Imm8 (p : Prefixes) (rm : RM Reg8) (v : Byte) :
    operandsOf (.rclRm8Imm8 p rm v) = .byteSrc (rmPlace8 rm) (.imm v) := shape_rolRm8Imm8 rm v
@[simp] theorem operandsOf_rclRmImm8 (p : Prefixes) (rm : RM Reg) (v : Byte) :
    operandsOf (.rclRmImm8 p rm v) = .byteSrc (rmPlace (opWidth p) rm) (.imm v) := shape_rolRmImm8 p rm v
@[simp] theorem operandsOf_rclRm8One (p : Prefixes) (rm : RM Reg8) :
    operandsOf (.rclRm8One p rm) = .byteSrc (rmPlace8 rm) (.imm 1#8) := shape_rolRm8One rm
@[simp] theorem operandsOf_rclRmOne (p : Prefixes) (rm : RM Reg) :
    operandsOf (.rclRmOne p rm) = .byteSrc (rmPlace (opWidth p) rm) (.imm 1#8) := shape_rolRmOne p rm
@[simp] theorem operandsOf_rclRm8Cl (p : Prefixes) (rm : RM Reg8) :
    operandsOf (.rclRm8Cl p rm) = .byteSrc (rmPlace8 rm) (.place (.reg (.b .cl))) := shape_rolRm8Cl rm
@[simp] theorem operandsOf_rclRmCl (p : Prefixes) (rm : RM Reg) :
    operandsOf (.rclRmCl p rm) = .byteSrc (rmPlace (opWidth p) rm) (.place (.reg (.b .cl))) := shape_rolRmCl p rm
@[simp] theorem operandsOf_rcrRm8Imm8 (p : Prefixes) (rm : RM Reg8) (v : Byte) :
    operandsOf (.rcrRm8Imm8 p rm v) = .byteSrc (rmPlace8 rm) (.imm v) := shape_rolRm8Imm8 rm v
@[simp] theorem operandsOf_rcrRmImm8 (p : Prefixes) (rm : RM Reg) (v : Byte) :
    operandsOf (.rcrRmImm8 p rm v) = .byteSrc (rmPlace (opWidth p) rm) (.imm v) := shape_rolRmImm8 p rm v
@[simp] theorem operandsOf_rcrRm8One (p : Prefixes) (rm : RM Reg8) :
    operandsOf (.rcrRm8One p rm) = .byteSrc (rmPlace8 rm) (.imm 1#8) := shape_rolRm8One rm
@[simp] theorem operandsOf_rcrRmOne (p : Prefixes) (rm : RM Reg) :
    operandsOf (.rcrRmOne p rm) = .byteSrc (rmPlace (opWidth p) rm) (.imm 1#8) := shape_rolRmOne p rm
@[simp] theorem operandsOf_rcrRm8Cl (p : Prefixes) (rm : RM Reg8) :
    operandsOf (.rcrRm8Cl p rm) = .byteSrc (rmPlace8 rm) (.place (.reg (.b .cl))) := shape_rolRm8Cl rm
@[simp] theorem operandsOf_rcrRmCl (p : Prefixes) (rm : RM Reg) :
    operandsOf (.rcrRmCl p rm) = .byteSrc (rmPlace (opWidth p) rm) (.place (.reg (.b .cl))) := shape_rolRmCl p rm
@[simp] theorem operandsOf_shlRm8Imm8 (p : Prefixes) (rm : RM Reg8) (v : Byte) :
    operandsOf (.shlRm8Imm8 p rm v) = .byteSrc (rmPlace8 rm) (.imm v) := shape_rolRm8Imm8 rm v
@[simp] theorem operandsOf_shlRmImm8 (p : Prefixes) (rm : RM Reg) (v : Byte) :
    operandsOf (.shlRmImm8 p rm v) = .byteSrc (rmPlace (opWidth p) rm) (.imm v) := shape_rolRmImm8 p rm v
@[simp] theorem operandsOf_shlRm8One (p : Prefixes) (rm : RM Reg8) :
    operandsOf (.shlRm8One p rm) = .byteSrc (rmPlace8 rm) (.imm 1#8) := shape_rolRm8One rm
@[simp] theorem operandsOf_shlRmOne (p : Prefixes) (rm : RM Reg) :
    operandsOf (.shlRmOne p rm) = .byteSrc (rmPlace (opWidth p) rm) (.imm 1#8) := shape_rolRmOne p rm
@[simp] theorem operandsOf_shlRm8Cl (p : Prefixes) (rm : RM Reg8) :
    operandsOf (.shlRm8Cl p rm) = .byteSrc (rmPlace8 rm) (.place (.reg (.b .cl))) := shape_rolRm8Cl rm
@[simp] theorem operandsOf_shlRmCl (p : Prefixes) (rm : RM Reg) :
    operandsOf (.shlRmCl p rm) = .byteSrc (rmPlace (opWidth p) rm) (.place (.reg (.b .cl))) := shape_rolRmCl p rm
@[simp] theorem operandsOf_shrRm8Imm8 (p : Prefixes) (rm : RM Reg8) (v : Byte) :
    operandsOf (.shrRm8Imm8 p rm v) = .byteSrc (rmPlace8 rm) (.imm v) := shape_rolRm8Imm8 rm v
@[simp] theorem operandsOf_shrRmImm8 (p : Prefixes) (rm : RM Reg) (v : Byte) :
    operandsOf (.shrRmImm8 p rm v) = .byteSrc (rmPlace (opWidth p) rm) (.imm v) := shape_rolRmImm8 p rm v
@[simp] theorem operandsOf_shrRm8One (p : Prefixes) (rm : RM Reg8) :
    operandsOf (.shrRm8One p rm) = .byteSrc (rmPlace8 rm) (.imm 1#8) := shape_rolRm8One rm
@[simp] theorem operandsOf_shrRmOne (p : Prefixes) (rm : RM Reg) :
    operandsOf (.shrRmOne p rm) = .byteSrc (rmPlace (opWidth p) rm) (.imm 1#8) := shape_rolRmOne p rm
@[simp] theorem operandsOf_shrRm8Cl (p : Prefixes) (rm : RM Reg8) :
    operandsOf (.shrRm8Cl p rm) = .byteSrc (rmPlace8 rm) (.place (.reg (.b .cl))) := shape_rolRm8Cl rm
@[simp] theorem operandsOf_shrRmCl (p : Prefixes) (rm : RM Reg) :
    operandsOf (.shrRmCl p rm) = .byteSrc (rmPlace (opWidth p) rm) (.place (.reg (.b .cl))) := shape_rolRmCl p rm
@[simp] theorem operandsOf_sarRm8Imm8 (p : Prefixes) (rm : RM Reg8) (v : Byte) :
    operandsOf (.sarRm8Imm8 p rm v) = .byteSrc (rmPlace8 rm) (.imm v) := shape_rolRm8Imm8 rm v
@[simp] theorem operandsOf_sarRmImm8 (p : Prefixes) (rm : RM Reg) (v : Byte) :
    operandsOf (.sarRmImm8 p rm v) = .byteSrc (rmPlace (opWidth p) rm) (.imm v) := shape_rolRmImm8 p rm v
@[simp] theorem operandsOf_sarRm8One (p : Prefixes) (rm : RM Reg8) :
    operandsOf (.sarRm8One p rm) = .byteSrc (rmPlace8 rm) (.imm 1#8) := shape_rolRm8One rm
@[simp] theorem operandsOf_sarRmOne (p : Prefixes) (rm : RM Reg) :
    operandsOf (.sarRmOne p rm) = .byteSrc (rmPlace (opWidth p) rm) (.imm 1#8) := shape_rolRmOne p rm
@[simp] theorem operandsOf_sarRm8Cl (p : Prefixes) (rm : RM Reg8) :
    operandsOf (.sarRm8Cl p rm) = .byteSrc (rmPlace8 rm) (.place (.reg (.b .cl))) := shape_rolRm8Cl rm
@[simp] theorem operandsOf_sarRmCl (p : Prefixes) (rm : RM Reg) :
    operandsOf (.sarRmCl p rm) = .byteSrc (rmPlace (opWidth p) rm) (.place (.reg (.b .cl))) := shape_rolRmCl p rm
@[simp] theorem operandsOf_callRel32 (p : Prefixes) (d : Word) :
    operandsOf (.callRel32 p d) = .target d := rfl
@[simp] theorem operandsOf_callRm32 (p : Prefixes) (rm : RM Reg) :
    operandsOf (.callRm32 p rm) = .one (rmPlace .w32 rm) := shape_callRm32 rm
@[simp] theorem operandsOf_ret (p : Prefixes) :
    operandsOf (.ret p) = .none := rfl
@[simp] theorem operandsOf_retImm16 (p : Prefixes) (v : BitVec 16) :
    operandsOf (.retImm16 p v) = .imm (w := .w16) v := congrArg (Operands.imm (w := .w16)) (rawImm_half v)
@[simp] theorem operandsOf_jmpRel8 (p : Prefixes) (d : Byte) :
    operandsOf (.jmpRel8 p d) = .target (d.signExtend 32) := rfl
@[simp] theorem operandsOf_jmpRel32 (p : Prefixes) (d : Word) :
    operandsOf (.jmpRel32 p d) = .target d := rfl
@[simp] theorem operandsOf_jmpRm32 (p : Prefixes) (rm : RM Reg) :
    operandsOf (.jmpRm32 p rm) = .one (rmPlace .w32 rm) := shape_callRm32 rm
@[simp] theorem operandsOf_joRel8 (p : Prefixes) (d : Byte) :
    operandsOf (.joRel8 p d) = .target (d.signExtend 32) := rfl
@[simp] theorem operandsOf_joRel32 (p : Prefixes) (d : Word) :
    operandsOf (.joRel32 p d) = .target d := rfl
@[simp] theorem operandsOf_jnoRel8 (p : Prefixes) (d : Byte) :
    operandsOf (.jnoRel8 p d) = .target (d.signExtend 32) := rfl
@[simp] theorem operandsOf_jnoRel32 (p : Prefixes) (d : Word) :
    operandsOf (.jnoRel32 p d) = .target d := rfl
@[simp] theorem operandsOf_jbRel8 (p : Prefixes) (d : Byte) :
    operandsOf (.jbRel8 p d) = .target (d.signExtend 32) := rfl
@[simp] theorem operandsOf_jbRel32 (p : Prefixes) (d : Word) :
    operandsOf (.jbRel32 p d) = .target d := rfl
@[simp] theorem operandsOf_jaeRel8 (p : Prefixes) (d : Byte) :
    operandsOf (.jaeRel8 p d) = .target (d.signExtend 32) := rfl
@[simp] theorem operandsOf_jaeRel32 (p : Prefixes) (d : Word) :
    operandsOf (.jaeRel32 p d) = .target d := rfl
@[simp] theorem operandsOf_jeRel8 (p : Prefixes) (d : Byte) :
    operandsOf (.jeRel8 p d) = .target (d.signExtend 32) := rfl
@[simp] theorem operandsOf_jeRel32 (p : Prefixes) (d : Word) :
    operandsOf (.jeRel32 p d) = .target d := rfl
@[simp] theorem operandsOf_jneRel8 (p : Prefixes) (d : Byte) :
    operandsOf (.jneRel8 p d) = .target (d.signExtend 32) := rfl
@[simp] theorem operandsOf_jneRel32 (p : Prefixes) (d : Word) :
    operandsOf (.jneRel32 p d) = .target d := rfl
@[simp] theorem operandsOf_jbeRel8 (p : Prefixes) (d : Byte) :
    operandsOf (.jbeRel8 p d) = .target (d.signExtend 32) := rfl
@[simp] theorem operandsOf_jbeRel32 (p : Prefixes) (d : Word) :
    operandsOf (.jbeRel32 p d) = .target d := rfl
@[simp] theorem operandsOf_jaRel8 (p : Prefixes) (d : Byte) :
    operandsOf (.jaRel8 p d) = .target (d.signExtend 32) := rfl
@[simp] theorem operandsOf_jaRel32 (p : Prefixes) (d : Word) :
    operandsOf (.jaRel32 p d) = .target d := rfl
@[simp] theorem operandsOf_jsRel8 (p : Prefixes) (d : Byte) :
    operandsOf (.jsRel8 p d) = .target (d.signExtend 32) := rfl
@[simp] theorem operandsOf_jsRel32 (p : Prefixes) (d : Word) :
    operandsOf (.jsRel32 p d) = .target d := rfl
@[simp] theorem operandsOf_jnsRel8 (p : Prefixes) (d : Byte) :
    operandsOf (.jnsRel8 p d) = .target (d.signExtend 32) := rfl
@[simp] theorem operandsOf_jnsRel32 (p : Prefixes) (d : Word) :
    operandsOf (.jnsRel32 p d) = .target d := rfl
@[simp] theorem operandsOf_jpRel8 (p : Prefixes) (d : Byte) :
    operandsOf (.jpRel8 p d) = .target (d.signExtend 32) := rfl
@[simp] theorem operandsOf_jpRel32 (p : Prefixes) (d : Word) :
    operandsOf (.jpRel32 p d) = .target d := rfl
@[simp] theorem operandsOf_jnpRel8 (p : Prefixes) (d : Byte) :
    operandsOf (.jnpRel8 p d) = .target (d.signExtend 32) := rfl
@[simp] theorem operandsOf_jnpRel32 (p : Prefixes) (d : Word) :
    operandsOf (.jnpRel32 p d) = .target d := rfl
@[simp] theorem operandsOf_jlRel8 (p : Prefixes) (d : Byte) :
    operandsOf (.jlRel8 p d) = .target (d.signExtend 32) := rfl
@[simp] theorem operandsOf_jlRel32 (p : Prefixes) (d : Word) :
    operandsOf (.jlRel32 p d) = .target d := rfl
@[simp] theorem operandsOf_jgeRel8 (p : Prefixes) (d : Byte) :
    operandsOf (.jgeRel8 p d) = .target (d.signExtend 32) := rfl
@[simp] theorem operandsOf_jgeRel32 (p : Prefixes) (d : Word) :
    operandsOf (.jgeRel32 p d) = .target d := rfl
@[simp] theorem operandsOf_jleRel8 (p : Prefixes) (d : Byte) :
    operandsOf (.jleRel8 p d) = .target (d.signExtend 32) := rfl
@[simp] theorem operandsOf_jleRel32 (p : Prefixes) (d : Word) :
    operandsOf (.jleRel32 p d) = .target d := rfl
@[simp] theorem operandsOf_jgRel8 (p : Prefixes) (d : Byte) :
    operandsOf (.jgRel8 p d) = .target (d.signExtend 32) := rfl
@[simp] theorem operandsOf_jgRel32 (p : Prefixes) (d : Word) :
    operandsOf (.jgRel32 p d) = .target d := rfl
@[simp] theorem operandsOf_cmovoRRm (p : Prefixes) (r : Reg) (rm : RM Reg) :
    operandsOf (.cmovoRRm p r rm) = .two (.reg (regView (opWidth p) r)) (.place (rmPlace (opWidth p) rm)) := shape_addRRm p r rm
@[simp] theorem operandsOf_cmovnoRRm (p : Prefixes) (r : Reg) (rm : RM Reg) :
    operandsOf (.cmovnoRRm p r rm) = .two (.reg (regView (opWidth p) r)) (.place (rmPlace (opWidth p) rm)) := shape_addRRm p r rm
@[simp] theorem operandsOf_cmovbRRm (p : Prefixes) (r : Reg) (rm : RM Reg) :
    operandsOf (.cmovbRRm p r rm) = .two (.reg (regView (opWidth p) r)) (.place (rmPlace (opWidth p) rm)) := shape_addRRm p r rm
@[simp] theorem operandsOf_cmovaeRRm (p : Prefixes) (r : Reg) (rm : RM Reg) :
    operandsOf (.cmovaeRRm p r rm) = .two (.reg (regView (opWidth p) r)) (.place (rmPlace (opWidth p) rm)) := shape_addRRm p r rm
@[simp] theorem operandsOf_cmoveRRm (p : Prefixes) (r : Reg) (rm : RM Reg) :
    operandsOf (.cmoveRRm p r rm) = .two (.reg (regView (opWidth p) r)) (.place (rmPlace (opWidth p) rm)) := shape_addRRm p r rm
@[simp] theorem operandsOf_cmovneRRm (p : Prefixes) (r : Reg) (rm : RM Reg) :
    operandsOf (.cmovneRRm p r rm) = .two (.reg (regView (opWidth p) r)) (.place (rmPlace (opWidth p) rm)) := shape_addRRm p r rm
@[simp] theorem operandsOf_cmovbeRRm (p : Prefixes) (r : Reg) (rm : RM Reg) :
    operandsOf (.cmovbeRRm p r rm) = .two (.reg (regView (opWidth p) r)) (.place (rmPlace (opWidth p) rm)) := shape_addRRm p r rm
@[simp] theorem operandsOf_cmovaRRm (p : Prefixes) (r : Reg) (rm : RM Reg) :
    operandsOf (.cmovaRRm p r rm) = .two (.reg (regView (opWidth p) r)) (.place (rmPlace (opWidth p) rm)) := shape_addRRm p r rm
@[simp] theorem operandsOf_cmovsRRm (p : Prefixes) (r : Reg) (rm : RM Reg) :
    operandsOf (.cmovsRRm p r rm) = .two (.reg (regView (opWidth p) r)) (.place (rmPlace (opWidth p) rm)) := shape_addRRm p r rm
@[simp] theorem operandsOf_cmovnsRRm (p : Prefixes) (r : Reg) (rm : RM Reg) :
    operandsOf (.cmovnsRRm p r rm) = .two (.reg (regView (opWidth p) r)) (.place (rmPlace (opWidth p) rm)) := shape_addRRm p r rm
@[simp] theorem operandsOf_cmovpRRm (p : Prefixes) (r : Reg) (rm : RM Reg) :
    operandsOf (.cmovpRRm p r rm) = .two (.reg (regView (opWidth p) r)) (.place (rmPlace (opWidth p) rm)) := shape_addRRm p r rm
@[simp] theorem operandsOf_cmovnpRRm (p : Prefixes) (r : Reg) (rm : RM Reg) :
    operandsOf (.cmovnpRRm p r rm) = .two (.reg (regView (opWidth p) r)) (.place (rmPlace (opWidth p) rm)) := shape_addRRm p r rm
@[simp] theorem operandsOf_cmovlRRm (p : Prefixes) (r : Reg) (rm : RM Reg) :
    operandsOf (.cmovlRRm p r rm) = .two (.reg (regView (opWidth p) r)) (.place (rmPlace (opWidth p) rm)) := shape_addRRm p r rm
@[simp] theorem operandsOf_cmovgeRRm (p : Prefixes) (r : Reg) (rm : RM Reg) :
    operandsOf (.cmovgeRRm p r rm) = .two (.reg (regView (opWidth p) r)) (.place (rmPlace (opWidth p) rm)) := shape_addRRm p r rm
@[simp] theorem operandsOf_cmovleRRm (p : Prefixes) (r : Reg) (rm : RM Reg) :
    operandsOf (.cmovleRRm p r rm) = .two (.reg (regView (opWidth p) r)) (.place (rmPlace (opWidth p) rm)) := shape_addRRm p r rm
@[simp] theorem operandsOf_cmovgRRm (p : Prefixes) (r : Reg) (rm : RM Reg) :
    operandsOf (.cmovgRRm p r rm) = .two (.reg (regView (opWidth p) r)) (.place (rmPlace (opWidth p) rm)) := shape_addRRm p r rm
@[simp] theorem operandsOf_bsfRRm (p : Prefixes) (r : Reg) (rm : RM Reg) :
    operandsOf (.bsfRRm p r rm) = .two (.reg (regView (opWidth p) r)) (.place (rmPlace (opWidth p) rm)) := shape_addRRm p r rm
@[simp] theorem operandsOf_bsrRRm (p : Prefixes) (r : Reg) (rm : RM Reg) :
    operandsOf (.bsrRRm p r rm) = .two (.reg (regView (opWidth p) r)) (.place (rmPlace (opWidth p) rm)) := shape_addRRm p r rm
@[simp] theorem operandsOf_bswapR32 (p : Prefixes) (r : Reg) :
    operandsOf (.bswapR32 p r) = .one (.reg (regView .w32 r)) := rfl
@[simp] theorem operandsOf_btRmR (p : Prefixes) (rm : RM Reg) (r : Reg) :
    operandsOf (.btRmR p rm r) = .two (rmPlace (opWidth p) rm) (.place (.reg (regView (opWidth p) r))) := shape_addRmR p rm r
@[simp] theorem operandsOf_btRmImm8 (p : Prefixes) (rm : RM Reg) (v : Byte) :
    operandsOf (.btRmImm8 p rm v) = .byteSrc (rmPlace (opWidth p) rm) (.imm v) := shape_rolRmImm8 p rm v
@[simp] theorem operandsOf_btsRmR (p : Prefixes) (rm : RM Reg) (r : Reg) :
    operandsOf (.btsRmR p rm r) = .two (rmPlace (opWidth p) rm) (.place (.reg (regView (opWidth p) r))) := shape_addRmR p rm r
@[simp] theorem operandsOf_btsRmImm8 (p : Prefixes) (rm : RM Reg) (v : Byte) :
    operandsOf (.btsRmImm8 p rm v) = .byteSrc (rmPlace (opWidth p) rm) (.imm v) := shape_rolRmImm8 p rm v
@[simp] theorem operandsOf_btrRmR (p : Prefixes) (rm : RM Reg) (r : Reg) :
    operandsOf (.btrRmR p rm r) = .two (rmPlace (opWidth p) rm) (.place (.reg (regView (opWidth p) r))) := shape_addRmR p rm r
@[simp] theorem operandsOf_btrRmImm8 (p : Prefixes) (rm : RM Reg) (v : Byte) :
    operandsOf (.btrRmImm8 p rm v) = .byteSrc (rmPlace (opWidth p) rm) (.imm v) := shape_rolRmImm8 p rm v
@[simp] theorem operandsOf_btcRmR (p : Prefixes) (rm : RM Reg) (r : Reg) :
    operandsOf (.btcRmR p rm r) = .two (rmPlace (opWidth p) rm) (.place (.reg (regView (opWidth p) r))) := shape_addRmR p rm r
@[simp] theorem operandsOf_btcRmImm8 (p : Prefixes) (rm : RM Reg) (v : Byte) :
    operandsOf (.btcRmImm8 p rm v) = .byteSrc (rmPlace (opWidth p) rm) (.imm v) := shape_rolRmImm8 p rm v

/-! ## The mnemonic of every row -/

@[simp] theorem mnemonic_addRm8R8 (p : Prefixes) (rm : RM Reg8) (r : Reg8) : (Instr.addRm8R8 p rm r).mnemonic = .ADD := rfl
@[simp] theorem mnemonic_addRmR (p : Prefixes) (rm : RM Reg) (r : Reg) : (Instr.addRmR p rm r).mnemonic = .ADD := rfl
@[simp] theorem mnemonic_addR8Rm8 (p : Prefixes) (r : Reg8) (rm : RM Reg8) : (Instr.addR8Rm8 p r rm).mnemonic = .ADD := rfl
@[simp] theorem mnemonic_addRRm (p : Prefixes) (r : Reg) (rm : RM Reg) : (Instr.addRRm p r rm).mnemonic = .ADD := rfl
@[simp] theorem mnemonic_addAlImm8 (p : Prefixes) (v : Byte) : (Instr.addAlImm8 p v).mnemonic = .ADD := rfl
@[simp] theorem mnemonic_addEaxImm (p : Prefixes) (v : ImmZ) : (Instr.addEaxImm p v).mnemonic = .ADD := rfl
@[simp] theorem mnemonic_addRm8Imm8 (p : Prefixes) (rm : RM Reg8) (v : Byte) : (Instr.addRm8Imm8 p rm v).mnemonic = .ADD := rfl
@[simp] theorem mnemonic_addRmImm (p : Prefixes) (rm : RM Reg) (v : ImmZ) : (Instr.addRmImm p rm v).mnemonic = .ADD := rfl
@[simp] theorem mnemonic_addRmImm8 (p : Prefixes) (rm : RM Reg) (v : Byte) : (Instr.addRmImm8 p rm v).mnemonic = .ADD := rfl
@[simp] theorem mnemonic_orRm8R8 (p : Prefixes) (rm : RM Reg8) (r : Reg8) : (Instr.orRm8R8 p rm r).mnemonic = .OR := rfl
@[simp] theorem mnemonic_orRmR (p : Prefixes) (rm : RM Reg) (r : Reg) : (Instr.orRmR p rm r).mnemonic = .OR := rfl
@[simp] theorem mnemonic_orR8Rm8 (p : Prefixes) (r : Reg8) (rm : RM Reg8) : (Instr.orR8Rm8 p r rm).mnemonic = .OR := rfl
@[simp] theorem mnemonic_orRRm (p : Prefixes) (r : Reg) (rm : RM Reg) : (Instr.orRRm p r rm).mnemonic = .OR := rfl
@[simp] theorem mnemonic_orAlImm8 (p : Prefixes) (v : Byte) : (Instr.orAlImm8 p v).mnemonic = .OR := rfl
@[simp] theorem mnemonic_orEaxImm (p : Prefixes) (v : ImmZ) : (Instr.orEaxImm p v).mnemonic = .OR := rfl
@[simp] theorem mnemonic_orRm8Imm8 (p : Prefixes) (rm : RM Reg8) (v : Byte) : (Instr.orRm8Imm8 p rm v).mnemonic = .OR := rfl
@[simp] theorem mnemonic_orRmImm (p : Prefixes) (rm : RM Reg) (v : ImmZ) : (Instr.orRmImm p rm v).mnemonic = .OR := rfl
@[simp] theorem mnemonic_orRmImm8 (p : Prefixes) (rm : RM Reg) (v : Byte) : (Instr.orRmImm8 p rm v).mnemonic = .OR := rfl
@[simp] theorem mnemonic_adcRm8R8 (p : Prefixes) (rm : RM Reg8) (r : Reg8) : (Instr.adcRm8R8 p rm r).mnemonic = .ADC := rfl
@[simp] theorem mnemonic_adcRmR (p : Prefixes) (rm : RM Reg) (r : Reg) : (Instr.adcRmR p rm r).mnemonic = .ADC := rfl
@[simp] theorem mnemonic_adcR8Rm8 (p : Prefixes) (r : Reg8) (rm : RM Reg8) : (Instr.adcR8Rm8 p r rm).mnemonic = .ADC := rfl
@[simp] theorem mnemonic_adcRRm (p : Prefixes) (r : Reg) (rm : RM Reg) : (Instr.adcRRm p r rm).mnemonic = .ADC := rfl
@[simp] theorem mnemonic_adcAlImm8 (p : Prefixes) (v : Byte) : (Instr.adcAlImm8 p v).mnemonic = .ADC := rfl
@[simp] theorem mnemonic_adcEaxImm (p : Prefixes) (v : ImmZ) : (Instr.adcEaxImm p v).mnemonic = .ADC := rfl
@[simp] theorem mnemonic_adcRm8Imm8 (p : Prefixes) (rm : RM Reg8) (v : Byte) : (Instr.adcRm8Imm8 p rm v).mnemonic = .ADC := rfl
@[simp] theorem mnemonic_adcRmImm (p : Prefixes) (rm : RM Reg) (v : ImmZ) : (Instr.adcRmImm p rm v).mnemonic = .ADC := rfl
@[simp] theorem mnemonic_adcRmImm8 (p : Prefixes) (rm : RM Reg) (v : Byte) : (Instr.adcRmImm8 p rm v).mnemonic = .ADC := rfl
@[simp] theorem mnemonic_sbbRm8R8 (p : Prefixes) (rm : RM Reg8) (r : Reg8) : (Instr.sbbRm8R8 p rm r).mnemonic = .SBB := rfl
@[simp] theorem mnemonic_sbbRmR (p : Prefixes) (rm : RM Reg) (r : Reg) : (Instr.sbbRmR p rm r).mnemonic = .SBB := rfl
@[simp] theorem mnemonic_sbbR8Rm8 (p : Prefixes) (r : Reg8) (rm : RM Reg8) : (Instr.sbbR8Rm8 p r rm).mnemonic = .SBB := rfl
@[simp] theorem mnemonic_sbbRRm (p : Prefixes) (r : Reg) (rm : RM Reg) : (Instr.sbbRRm p r rm).mnemonic = .SBB := rfl
@[simp] theorem mnemonic_sbbAlImm8 (p : Prefixes) (v : Byte) : (Instr.sbbAlImm8 p v).mnemonic = .SBB := rfl
@[simp] theorem mnemonic_sbbEaxImm (p : Prefixes) (v : ImmZ) : (Instr.sbbEaxImm p v).mnemonic = .SBB := rfl
@[simp] theorem mnemonic_sbbRm8Imm8 (p : Prefixes) (rm : RM Reg8) (v : Byte) : (Instr.sbbRm8Imm8 p rm v).mnemonic = .SBB := rfl
@[simp] theorem mnemonic_sbbRmImm (p : Prefixes) (rm : RM Reg) (v : ImmZ) : (Instr.sbbRmImm p rm v).mnemonic = .SBB := rfl
@[simp] theorem mnemonic_sbbRmImm8 (p : Prefixes) (rm : RM Reg) (v : Byte) : (Instr.sbbRmImm8 p rm v).mnemonic = .SBB := rfl
@[simp] theorem mnemonic_andRm8R8 (p : Prefixes) (rm : RM Reg8) (r : Reg8) : (Instr.andRm8R8 p rm r).mnemonic = .AND := rfl
@[simp] theorem mnemonic_andRmR (p : Prefixes) (rm : RM Reg) (r : Reg) : (Instr.andRmR p rm r).mnemonic = .AND := rfl
@[simp] theorem mnemonic_andR8Rm8 (p : Prefixes) (r : Reg8) (rm : RM Reg8) : (Instr.andR8Rm8 p r rm).mnemonic = .AND := rfl
@[simp] theorem mnemonic_andRRm (p : Prefixes) (r : Reg) (rm : RM Reg) : (Instr.andRRm p r rm).mnemonic = .AND := rfl
@[simp] theorem mnemonic_andAlImm8 (p : Prefixes) (v : Byte) : (Instr.andAlImm8 p v).mnemonic = .AND := rfl
@[simp] theorem mnemonic_andEaxImm (p : Prefixes) (v : ImmZ) : (Instr.andEaxImm p v).mnemonic = .AND := rfl
@[simp] theorem mnemonic_andRm8Imm8 (p : Prefixes) (rm : RM Reg8) (v : Byte) : (Instr.andRm8Imm8 p rm v).mnemonic = .AND := rfl
@[simp] theorem mnemonic_andRmImm (p : Prefixes) (rm : RM Reg) (v : ImmZ) : (Instr.andRmImm p rm v).mnemonic = .AND := rfl
@[simp] theorem mnemonic_andRmImm8 (p : Prefixes) (rm : RM Reg) (v : Byte) : (Instr.andRmImm8 p rm v).mnemonic = .AND := rfl
@[simp] theorem mnemonic_subRm8R8 (p : Prefixes) (rm : RM Reg8) (r : Reg8) : (Instr.subRm8R8 p rm r).mnemonic = .SUB := rfl
@[simp] theorem mnemonic_subRmR (p : Prefixes) (rm : RM Reg) (r : Reg) : (Instr.subRmR p rm r).mnemonic = .SUB := rfl
@[simp] theorem mnemonic_subR8Rm8 (p : Prefixes) (r : Reg8) (rm : RM Reg8) : (Instr.subR8Rm8 p r rm).mnemonic = .SUB := rfl
@[simp] theorem mnemonic_subRRm (p : Prefixes) (r : Reg) (rm : RM Reg) : (Instr.subRRm p r rm).mnemonic = .SUB := rfl
@[simp] theorem mnemonic_subAlImm8 (p : Prefixes) (v : Byte) : (Instr.subAlImm8 p v).mnemonic = .SUB := rfl
@[simp] theorem mnemonic_subEaxImm (p : Prefixes) (v : ImmZ) : (Instr.subEaxImm p v).mnemonic = .SUB := rfl
@[simp] theorem mnemonic_subRm8Imm8 (p : Prefixes) (rm : RM Reg8) (v : Byte) : (Instr.subRm8Imm8 p rm v).mnemonic = .SUB := rfl
@[simp] theorem mnemonic_subRmImm (p : Prefixes) (rm : RM Reg) (v : ImmZ) : (Instr.subRmImm p rm v).mnemonic = .SUB := rfl
@[simp] theorem mnemonic_subRmImm8 (p : Prefixes) (rm : RM Reg) (v : Byte) : (Instr.subRmImm8 p rm v).mnemonic = .SUB := rfl
@[simp] theorem mnemonic_xorRm8R8 (p : Prefixes) (rm : RM Reg8) (r : Reg8) : (Instr.xorRm8R8 p rm r).mnemonic = .XOR := rfl
@[simp] theorem mnemonic_xorRmR (p : Prefixes) (rm : RM Reg) (r : Reg) : (Instr.xorRmR p rm r).mnemonic = .XOR := rfl
@[simp] theorem mnemonic_xorR8Rm8 (p : Prefixes) (r : Reg8) (rm : RM Reg8) : (Instr.xorR8Rm8 p r rm).mnemonic = .XOR := rfl
@[simp] theorem mnemonic_xorRRm (p : Prefixes) (r : Reg) (rm : RM Reg) : (Instr.xorRRm p r rm).mnemonic = .XOR := rfl
@[simp] theorem mnemonic_xorAlImm8 (p : Prefixes) (v : Byte) : (Instr.xorAlImm8 p v).mnemonic = .XOR := rfl
@[simp] theorem mnemonic_xorEaxImm (p : Prefixes) (v : ImmZ) : (Instr.xorEaxImm p v).mnemonic = .XOR := rfl
@[simp] theorem mnemonic_xorRm8Imm8 (p : Prefixes) (rm : RM Reg8) (v : Byte) : (Instr.xorRm8Imm8 p rm v).mnemonic = .XOR := rfl
@[simp] theorem mnemonic_xorRmImm (p : Prefixes) (rm : RM Reg) (v : ImmZ) : (Instr.xorRmImm p rm v).mnemonic = .XOR := rfl
@[simp] theorem mnemonic_xorRmImm8 (p : Prefixes) (rm : RM Reg) (v : Byte) : (Instr.xorRmImm8 p rm v).mnemonic = .XOR := rfl
@[simp] theorem mnemonic_cmpRm8R8 (p : Prefixes) (rm : RM Reg8) (r : Reg8) : (Instr.cmpRm8R8 p rm r).mnemonic = .CMP := rfl
@[simp] theorem mnemonic_cmpRmR (p : Prefixes) (rm : RM Reg) (r : Reg) : (Instr.cmpRmR p rm r).mnemonic = .CMP := rfl
@[simp] theorem mnemonic_cmpR8Rm8 (p : Prefixes) (r : Reg8) (rm : RM Reg8) : (Instr.cmpR8Rm8 p r rm).mnemonic = .CMP := rfl
@[simp] theorem mnemonic_cmpRRm (p : Prefixes) (r : Reg) (rm : RM Reg) : (Instr.cmpRRm p r rm).mnemonic = .CMP := rfl
@[simp] theorem mnemonic_cmpAlImm8 (p : Prefixes) (v : Byte) : (Instr.cmpAlImm8 p v).mnemonic = .CMP := rfl
@[simp] theorem mnemonic_cmpEaxImm (p : Prefixes) (v : ImmZ) : (Instr.cmpEaxImm p v).mnemonic = .CMP := rfl
@[simp] theorem mnemonic_cmpRm8Imm8 (p : Prefixes) (rm : RM Reg8) (v : Byte) : (Instr.cmpRm8Imm8 p rm v).mnemonic = .CMP := rfl
@[simp] theorem mnemonic_cmpRmImm (p : Prefixes) (rm : RM Reg) (v : ImmZ) : (Instr.cmpRmImm p rm v).mnemonic = .CMP := rfl
@[simp] theorem mnemonic_cmpRmImm8 (p : Prefixes) (rm : RM Reg) (v : Byte) : (Instr.cmpRmImm8 p rm v).mnemonic = .CMP := rfl
@[simp] theorem mnemonic_incR (p : Prefixes) (r : Reg) : (Instr.incR p r).mnemonic = .INC := rfl
@[simp] theorem mnemonic_decR (p : Prefixes) (r : Reg) : (Instr.decR p r).mnemonic = .DEC := rfl
@[simp] theorem mnemonic_incRm8 (p : Prefixes) (rm : RM Reg8) : (Instr.incRm8 p rm).mnemonic = .INC := rfl
@[simp] theorem mnemonic_decRm8 (p : Prefixes) (rm : RM Reg8) : (Instr.decRm8 p rm).mnemonic = .DEC := rfl
@[simp] theorem mnemonic_incRm (p : Prefixes) (rm : RM Reg) : (Instr.incRm p rm).mnemonic = .INC := rfl
@[simp] theorem mnemonic_decRm (p : Prefixes) (rm : RM Reg) : (Instr.decRm p rm).mnemonic = .DEC := rfl
@[simp] theorem mnemonic_testRm8Imm8 (p : Prefixes) (rm : RM Reg8) (v : Byte) : (Instr.testRm8Imm8 p rm v).mnemonic = .TEST := rfl
@[simp] theorem mnemonic_notRm8 (p : Prefixes) (rm : RM Reg8) : (Instr.notRm8 p rm).mnemonic = .NOT := rfl
@[simp] theorem mnemonic_negRm8 (p : Prefixes) (rm : RM Reg8) : (Instr.negRm8 p rm).mnemonic = .NEG := rfl
@[simp] theorem mnemonic_mulRm8 (p : Prefixes) (rm : RM Reg8) : (Instr.mulRm8 p rm).mnemonic = .MUL := rfl
@[simp] theorem mnemonic_imulRm8 (p : Prefixes) (rm : RM Reg8) : (Instr.imulRm8 p rm).mnemonic = .IMUL := rfl
@[simp] theorem mnemonic_divRm8 (p : Prefixes) (rm : RM Reg8) : (Instr.divRm8 p rm).mnemonic = .DIV := rfl
@[simp] theorem mnemonic_idivRm8 (p : Prefixes) (rm : RM Reg8) : (Instr.idivRm8 p rm).mnemonic = .IDIV := rfl
@[simp] theorem mnemonic_testRmImm (p : Prefixes) (rm : RM Reg) (v : ImmZ) : (Instr.testRmImm p rm v).mnemonic = .TEST := rfl
@[simp] theorem mnemonic_notRm (p : Prefixes) (rm : RM Reg) : (Instr.notRm p rm).mnemonic = .NOT := rfl
@[simp] theorem mnemonic_negRm (p : Prefixes) (rm : RM Reg) : (Instr.negRm p rm).mnemonic = .NEG := rfl
@[simp] theorem mnemonic_mulRm (p : Prefixes) (rm : RM Reg) : (Instr.mulRm p rm).mnemonic = .MUL := rfl
@[simp] theorem mnemonic_imulRm (p : Prefixes) (rm : RM Reg) : (Instr.imulRm p rm).mnemonic = .IMUL := rfl
@[simp] theorem mnemonic_divRm (p : Prefixes) (rm : RM Reg) : (Instr.divRm p rm).mnemonic = .DIV := rfl
@[simp] theorem mnemonic_idivRm (p : Prefixes) (rm : RM Reg) : (Instr.idivRm p rm).mnemonic = .IDIV := rfl
@[simp] theorem mnemonic_imulRRm (p : Prefixes) (r : Reg) (rm : RM Reg) : (Instr.imulRRm p r rm).mnemonic = .IMUL := rfl
@[simp] theorem mnemonic_imulRRmImm (p : Prefixes) (r : Reg) (rm : RM Reg) (v : ImmZ) : (Instr.imulRRmImm p r rm v).mnemonic = .IMUL := rfl
@[simp] theorem mnemonic_imulRRmImm8 (p : Prefixes) (r : Reg) (rm : RM Reg) (v : Byte) : (Instr.imulRRmImm8 p r rm v).mnemonic = .IMUL := rfl
@[simp] theorem mnemonic_testRm8R8 (p : Prefixes) (rm : RM Reg8) (r : Reg8) : (Instr.testRm8R8 p rm r).mnemonic = .TEST := rfl
@[simp] theorem mnemonic_testRmR (p : Prefixes) (rm : RM Reg) (r : Reg) : (Instr.testRmR p rm r).mnemonic = .TEST := rfl
@[simp] theorem mnemonic_testAlImm8 (p : Prefixes) (v : Byte) : (Instr.testAlImm8 p v).mnemonic = .TEST := rfl
@[simp] theorem mnemonic_testEaxImm (p : Prefixes) (v : ImmZ) : (Instr.testEaxImm p v).mnemonic = .TEST := rfl
@[simp] theorem mnemonic_movRm8R8 (p : Prefixes) (rm : RM Reg8) (r : Reg8) : (Instr.movRm8R8 p rm r).mnemonic = .MOV := rfl
@[simp] theorem mnemonic_movRmR (p : Prefixes) (rm : RM Reg) (r : Reg) : (Instr.movRmR p rm r).mnemonic = .MOV := rfl
@[simp] theorem mnemonic_movR8Rm8 (p : Prefixes) (r : Reg8) (rm : RM Reg8) : (Instr.movR8Rm8 p r rm).mnemonic = .MOV := rfl
@[simp] theorem mnemonic_movRRm (p : Prefixes) (r : Reg) (rm : RM Reg) : (Instr.movRRm p r rm).mnemonic = .MOV := rfl
@[simp] theorem mnemonic_movR8Imm8 (p : Prefixes) (r : Reg8) (v : Byte) : (Instr.movR8Imm8 p r v).mnemonic = .MOV := rfl
@[simp] theorem mnemonic_movRImm (p : Prefixes) (r : Reg) (v : ImmZ) : (Instr.movRImm p r v).mnemonic = .MOV := rfl
@[simp] theorem mnemonic_movRm8Imm8 (p : Prefixes) (rm : RM Reg8) (v : Byte) : (Instr.movRm8Imm8 p rm v).mnemonic = .MOV := rfl
@[simp] theorem mnemonic_movRmImm (p : Prefixes) (rm : RM Reg) (v : ImmZ) : (Instr.movRmImm p rm v).mnemonic = .MOV := rfl
@[simp] theorem mnemonic_movAlMoffs (p : Prefixes) (d : Word) : (Instr.movAlMoffs p d).mnemonic = .MOV := rfl
@[simp] theorem mnemonic_movEaxMoffs (p : Prefixes) (d : Word) : (Instr.movEaxMoffs p d).mnemonic = .MOV := rfl
@[simp] theorem mnemonic_movMoffsAl (p : Prefixes) (d : Word) : (Instr.movMoffsAl p d).mnemonic = .MOV := rfl
@[simp] theorem mnemonic_movMoffsEax (p : Prefixes) (d : Word) : (Instr.movMoffsEax p d).mnemonic = .MOV := rfl
@[simp] theorem mnemonic_leaRM (p : Prefixes) (r : Reg) (m : Mem) : (Instr.leaRM p r m).mnemonic = .LEA := rfl
@[simp] theorem mnemonic_movzxRRm8 (p : Prefixes) (r : Reg) (rm : RM Reg8) : (Instr.movzxRRm8 p r rm).mnemonic = .MOVZX := rfl
@[simp] theorem mnemonic_movzxRRm16 (p : Prefixes) (r : Reg) (rm : RM Reg) : (Instr.movzxRRm16 p r rm).mnemonic = .MOVZX := rfl
@[simp] theorem mnemonic_movsxRRm8 (p : Prefixes) (r : Reg) (rm : RM Reg8) : (Instr.movsxRRm8 p r rm).mnemonic = .MOVSX := rfl
@[simp] theorem mnemonic_movsxRRm16 (p : Prefixes) (r : Reg) (rm : RM Reg) : (Instr.movsxRRm16 p r rm).mnemonic = .MOVSX := rfl
@[simp] theorem mnemonic_cbw (p : Prefixes) : (Instr.cbw p).mnemonic = .CBW := rfl
@[simp] theorem mnemonic_cwde (p : Prefixes) : (Instr.cwde p).mnemonic = .CWDE := rfl
@[simp] theorem mnemonic_cwd (p : Prefixes) : (Instr.cwd p).mnemonic = .CWD := rfl
@[simp] theorem mnemonic_cdq (p : Prefixes) : (Instr.cdq p).mnemonic = .CDQ := rfl
@[simp] theorem mnemonic_cmpsb (p : Prefixes) : (Instr.cmpsb p).mnemonic = .CMPSB := rfl
@[simp] theorem mnemonic_cmpsw (p : Prefixes) : (Instr.cmpsw p).mnemonic = .CMPSW := rfl
@[simp] theorem mnemonic_cmpsd (p : Prefixes) : (Instr.cmpsd p).mnemonic = .CMPSD := rfl
@[simp] theorem mnemonic_clc (p : Prefixes) : (Instr.clc p).mnemonic = .CLC := rfl
@[simp] theorem mnemonic_stc (p : Prefixes) : (Instr.stc p).mnemonic = .STC := rfl
@[simp] theorem mnemonic_cmc (p : Prefixes) : (Instr.cmc p).mnemonic = .CMC := rfl
@[simp] theorem mnemonic_cld (p : Prefixes) : (Instr.cld p).mnemonic = .CLD := rfl
@[simp] theorem mnemonic_std (p : Prefixes) : (Instr.std p).mnemonic = .STD := rfl
@[simp] theorem mnemonic_aamImm8 (p : Prefixes) (v : Byte) : (Instr.aamImm8 p v).mnemonic = .AAM := rfl
@[simp] theorem mnemonic_aadImm8 (p : Prefixes) (v : Byte) : (Instr.aadImm8 p v).mnemonic = .AAD := rfl
@[simp] theorem mnemonic_rolRm8Imm8 (p : Prefixes) (rm : RM Reg8) (v : Byte) : (Instr.rolRm8Imm8 p rm v).mnemonic = .ROL := rfl
@[simp] theorem mnemonic_rolRmImm8 (p : Prefixes) (rm : RM Reg) (v : Byte) : (Instr.rolRmImm8 p rm v).mnemonic = .ROL := rfl
@[simp] theorem mnemonic_rolRm8One (p : Prefixes) (rm : RM Reg8) : (Instr.rolRm8One p rm).mnemonic = .ROL := rfl
@[simp] theorem mnemonic_rolRmOne (p : Prefixes) (rm : RM Reg) : (Instr.rolRmOne p rm).mnemonic = .ROL := rfl
@[simp] theorem mnemonic_rolRm8Cl (p : Prefixes) (rm : RM Reg8) : (Instr.rolRm8Cl p rm).mnemonic = .ROL := rfl
@[simp] theorem mnemonic_rolRmCl (p : Prefixes) (rm : RM Reg) : (Instr.rolRmCl p rm).mnemonic = .ROL := rfl
@[simp] theorem mnemonic_rorRm8Imm8 (p : Prefixes) (rm : RM Reg8) (v : Byte) : (Instr.rorRm8Imm8 p rm v).mnemonic = .ROR := rfl
@[simp] theorem mnemonic_rorRmImm8 (p : Prefixes) (rm : RM Reg) (v : Byte) : (Instr.rorRmImm8 p rm v).mnemonic = .ROR := rfl
@[simp] theorem mnemonic_rorRm8One (p : Prefixes) (rm : RM Reg8) : (Instr.rorRm8One p rm).mnemonic = .ROR := rfl
@[simp] theorem mnemonic_rorRmOne (p : Prefixes) (rm : RM Reg) : (Instr.rorRmOne p rm).mnemonic = .ROR := rfl
@[simp] theorem mnemonic_rorRm8Cl (p : Prefixes) (rm : RM Reg8) : (Instr.rorRm8Cl p rm).mnemonic = .ROR := rfl
@[simp] theorem mnemonic_rorRmCl (p : Prefixes) (rm : RM Reg) : (Instr.rorRmCl p rm).mnemonic = .ROR := rfl
@[simp] theorem mnemonic_rclRm8Imm8 (p : Prefixes) (rm : RM Reg8) (v : Byte) : (Instr.rclRm8Imm8 p rm v).mnemonic = .RCL := rfl
@[simp] theorem mnemonic_rclRmImm8 (p : Prefixes) (rm : RM Reg) (v : Byte) : (Instr.rclRmImm8 p rm v).mnemonic = .RCL := rfl
@[simp] theorem mnemonic_rclRm8One (p : Prefixes) (rm : RM Reg8) : (Instr.rclRm8One p rm).mnemonic = .RCL := rfl
@[simp] theorem mnemonic_rclRmOne (p : Prefixes) (rm : RM Reg) : (Instr.rclRmOne p rm).mnemonic = .RCL := rfl
@[simp] theorem mnemonic_rclRm8Cl (p : Prefixes) (rm : RM Reg8) : (Instr.rclRm8Cl p rm).mnemonic = .RCL := rfl
@[simp] theorem mnemonic_rclRmCl (p : Prefixes) (rm : RM Reg) : (Instr.rclRmCl p rm).mnemonic = .RCL := rfl
@[simp] theorem mnemonic_rcrRm8Imm8 (p : Prefixes) (rm : RM Reg8) (v : Byte) : (Instr.rcrRm8Imm8 p rm v).mnemonic = .RCR := rfl
@[simp] theorem mnemonic_rcrRmImm8 (p : Prefixes) (rm : RM Reg) (v : Byte) : (Instr.rcrRmImm8 p rm v).mnemonic = .RCR := rfl
@[simp] theorem mnemonic_rcrRm8One (p : Prefixes) (rm : RM Reg8) : (Instr.rcrRm8One p rm).mnemonic = .RCR := rfl
@[simp] theorem mnemonic_rcrRmOne (p : Prefixes) (rm : RM Reg) : (Instr.rcrRmOne p rm).mnemonic = .RCR := rfl
@[simp] theorem mnemonic_rcrRm8Cl (p : Prefixes) (rm : RM Reg8) : (Instr.rcrRm8Cl p rm).mnemonic = .RCR := rfl
@[simp] theorem mnemonic_rcrRmCl (p : Prefixes) (rm : RM Reg) : (Instr.rcrRmCl p rm).mnemonic = .RCR := rfl
@[simp] theorem mnemonic_shlRm8Imm8 (p : Prefixes) (rm : RM Reg8) (v : Byte) : (Instr.shlRm8Imm8 p rm v).mnemonic = .SHL := rfl
@[simp] theorem mnemonic_shlRmImm8 (p : Prefixes) (rm : RM Reg) (v : Byte) : (Instr.shlRmImm8 p rm v).mnemonic = .SHL := rfl
@[simp] theorem mnemonic_shlRm8One (p : Prefixes) (rm : RM Reg8) : (Instr.shlRm8One p rm).mnemonic = .SHL := rfl
@[simp] theorem mnemonic_shlRmOne (p : Prefixes) (rm : RM Reg) : (Instr.shlRmOne p rm).mnemonic = .SHL := rfl
@[simp] theorem mnemonic_shlRm8Cl (p : Prefixes) (rm : RM Reg8) : (Instr.shlRm8Cl p rm).mnemonic = .SHL := rfl
@[simp] theorem mnemonic_shlRmCl (p : Prefixes) (rm : RM Reg) : (Instr.shlRmCl p rm).mnemonic = .SHL := rfl
@[simp] theorem mnemonic_shrRm8Imm8 (p : Prefixes) (rm : RM Reg8) (v : Byte) : (Instr.shrRm8Imm8 p rm v).mnemonic = .SHR := rfl
@[simp] theorem mnemonic_shrRmImm8 (p : Prefixes) (rm : RM Reg) (v : Byte) : (Instr.shrRmImm8 p rm v).mnemonic = .SHR := rfl
@[simp] theorem mnemonic_shrRm8One (p : Prefixes) (rm : RM Reg8) : (Instr.shrRm8One p rm).mnemonic = .SHR := rfl
@[simp] theorem mnemonic_shrRmOne (p : Prefixes) (rm : RM Reg) : (Instr.shrRmOne p rm).mnemonic = .SHR := rfl
@[simp] theorem mnemonic_shrRm8Cl (p : Prefixes) (rm : RM Reg8) : (Instr.shrRm8Cl p rm).mnemonic = .SHR := rfl
@[simp] theorem mnemonic_shrRmCl (p : Prefixes) (rm : RM Reg) : (Instr.shrRmCl p rm).mnemonic = .SHR := rfl
@[simp] theorem mnemonic_sarRm8Imm8 (p : Prefixes) (rm : RM Reg8) (v : Byte) : (Instr.sarRm8Imm8 p rm v).mnemonic = .SAR := rfl
@[simp] theorem mnemonic_sarRmImm8 (p : Prefixes) (rm : RM Reg) (v : Byte) : (Instr.sarRmImm8 p rm v).mnemonic = .SAR := rfl
@[simp] theorem mnemonic_sarRm8One (p : Prefixes) (rm : RM Reg8) : (Instr.sarRm8One p rm).mnemonic = .SAR := rfl
@[simp] theorem mnemonic_sarRmOne (p : Prefixes) (rm : RM Reg) : (Instr.sarRmOne p rm).mnemonic = .SAR := rfl
@[simp] theorem mnemonic_sarRm8Cl (p : Prefixes) (rm : RM Reg8) : (Instr.sarRm8Cl p rm).mnemonic = .SAR := rfl
@[simp] theorem mnemonic_sarRmCl (p : Prefixes) (rm : RM Reg) : (Instr.sarRmCl p rm).mnemonic = .SAR := rfl
@[simp] theorem mnemonic_callRel32 (p : Prefixes) (d : Word) : (Instr.callRel32 p d).mnemonic = .CALL := rfl
@[simp] theorem mnemonic_callRm32 (p : Prefixes) (rm : RM Reg) : (Instr.callRm32 p rm).mnemonic = .CALL := rfl
@[simp] theorem mnemonic_ret (p : Prefixes) : (Instr.ret p).mnemonic = .RET := rfl
@[simp] theorem mnemonic_retImm16 (p : Prefixes) (v : BitVec 16) : (Instr.retImm16 p v).mnemonic = .RET := rfl
@[simp] theorem mnemonic_jmpRel8 (p : Prefixes) (d : Byte) : (Instr.jmpRel8 p d).mnemonic = .JMP := rfl
@[simp] theorem mnemonic_jmpRel32 (p : Prefixes) (d : Word) : (Instr.jmpRel32 p d).mnemonic = .JMP := rfl
@[simp] theorem mnemonic_jmpRm32 (p : Prefixes) (rm : RM Reg) : (Instr.jmpRm32 p rm).mnemonic = .JMP := rfl
@[simp] theorem mnemonic_joRel8 (p : Prefixes) (d : Byte) : (Instr.joRel8 p d).mnemonic = .JO := rfl
@[simp] theorem mnemonic_joRel32 (p : Prefixes) (d : Word) : (Instr.joRel32 p d).mnemonic = .JO := rfl
@[simp] theorem mnemonic_jnoRel8 (p : Prefixes) (d : Byte) : (Instr.jnoRel8 p d).mnemonic = .JNO := rfl
@[simp] theorem mnemonic_jnoRel32 (p : Prefixes) (d : Word) : (Instr.jnoRel32 p d).mnemonic = .JNO := rfl
@[simp] theorem mnemonic_jbRel8 (p : Prefixes) (d : Byte) : (Instr.jbRel8 p d).mnemonic = .JB := rfl
@[simp] theorem mnemonic_jbRel32 (p : Prefixes) (d : Word) : (Instr.jbRel32 p d).mnemonic = .JB := rfl
@[simp] theorem mnemonic_jaeRel8 (p : Prefixes) (d : Byte) : (Instr.jaeRel8 p d).mnemonic = .JAE := rfl
@[simp] theorem mnemonic_jaeRel32 (p : Prefixes) (d : Word) : (Instr.jaeRel32 p d).mnemonic = .JAE := rfl
@[simp] theorem mnemonic_jeRel8 (p : Prefixes) (d : Byte) : (Instr.jeRel8 p d).mnemonic = .JE := rfl
@[simp] theorem mnemonic_jeRel32 (p : Prefixes) (d : Word) : (Instr.jeRel32 p d).mnemonic = .JE := rfl
@[simp] theorem mnemonic_jneRel8 (p : Prefixes) (d : Byte) : (Instr.jneRel8 p d).mnemonic = .JNE := rfl
@[simp] theorem mnemonic_jneRel32 (p : Prefixes) (d : Word) : (Instr.jneRel32 p d).mnemonic = .JNE := rfl
@[simp] theorem mnemonic_jbeRel8 (p : Prefixes) (d : Byte) : (Instr.jbeRel8 p d).mnemonic = .JBE := rfl
@[simp] theorem mnemonic_jbeRel32 (p : Prefixes) (d : Word) : (Instr.jbeRel32 p d).mnemonic = .JBE := rfl
@[simp] theorem mnemonic_jaRel8 (p : Prefixes) (d : Byte) : (Instr.jaRel8 p d).mnemonic = .JA := rfl
@[simp] theorem mnemonic_jaRel32 (p : Prefixes) (d : Word) : (Instr.jaRel32 p d).mnemonic = .JA := rfl
@[simp] theorem mnemonic_jsRel8 (p : Prefixes) (d : Byte) : (Instr.jsRel8 p d).mnemonic = .JS := rfl
@[simp] theorem mnemonic_jsRel32 (p : Prefixes) (d : Word) : (Instr.jsRel32 p d).mnemonic = .JS := rfl
@[simp] theorem mnemonic_jnsRel8 (p : Prefixes) (d : Byte) : (Instr.jnsRel8 p d).mnemonic = .JNS := rfl
@[simp] theorem mnemonic_jnsRel32 (p : Prefixes) (d : Word) : (Instr.jnsRel32 p d).mnemonic = .JNS := rfl
@[simp] theorem mnemonic_jpRel8 (p : Prefixes) (d : Byte) : (Instr.jpRel8 p d).mnemonic = .JP := rfl
@[simp] theorem mnemonic_jpRel32 (p : Prefixes) (d : Word) : (Instr.jpRel32 p d).mnemonic = .JP := rfl
@[simp] theorem mnemonic_jnpRel8 (p : Prefixes) (d : Byte) : (Instr.jnpRel8 p d).mnemonic = .JNP := rfl
@[simp] theorem mnemonic_jnpRel32 (p : Prefixes) (d : Word) : (Instr.jnpRel32 p d).mnemonic = .JNP := rfl
@[simp] theorem mnemonic_jlRel8 (p : Prefixes) (d : Byte) : (Instr.jlRel8 p d).mnemonic = .JL := rfl
@[simp] theorem mnemonic_jlRel32 (p : Prefixes) (d : Word) : (Instr.jlRel32 p d).mnemonic = .JL := rfl
@[simp] theorem mnemonic_jgeRel8 (p : Prefixes) (d : Byte) : (Instr.jgeRel8 p d).mnemonic = .JGE := rfl
@[simp] theorem mnemonic_jgeRel32 (p : Prefixes) (d : Word) : (Instr.jgeRel32 p d).mnemonic = .JGE := rfl
@[simp] theorem mnemonic_jleRel8 (p : Prefixes) (d : Byte) : (Instr.jleRel8 p d).mnemonic = .JLE := rfl
@[simp] theorem mnemonic_jleRel32 (p : Prefixes) (d : Word) : (Instr.jleRel32 p d).mnemonic = .JLE := rfl
@[simp] theorem mnemonic_jgRel8 (p : Prefixes) (d : Byte) : (Instr.jgRel8 p d).mnemonic = .JG := rfl
@[simp] theorem mnemonic_jgRel32 (p : Prefixes) (d : Word) : (Instr.jgRel32 p d).mnemonic = .JG := rfl
@[simp] theorem mnemonic_cmovoRRm (p : Prefixes) (r : Reg) (rm : RM Reg) : (Instr.cmovoRRm p r rm).mnemonic = .CMOVO := rfl
@[simp] theorem mnemonic_cmovnoRRm (p : Prefixes) (r : Reg) (rm : RM Reg) : (Instr.cmovnoRRm p r rm).mnemonic = .CMOVNO := rfl
@[simp] theorem mnemonic_cmovbRRm (p : Prefixes) (r : Reg) (rm : RM Reg) : (Instr.cmovbRRm p r rm).mnemonic = .CMOVB := rfl
@[simp] theorem mnemonic_cmovaeRRm (p : Prefixes) (r : Reg) (rm : RM Reg) : (Instr.cmovaeRRm p r rm).mnemonic = .CMOVAE := rfl
@[simp] theorem mnemonic_cmoveRRm (p : Prefixes) (r : Reg) (rm : RM Reg) : (Instr.cmoveRRm p r rm).mnemonic = .CMOVE := rfl
@[simp] theorem mnemonic_cmovneRRm (p : Prefixes) (r : Reg) (rm : RM Reg) : (Instr.cmovneRRm p r rm).mnemonic = .CMOVNE := rfl
@[simp] theorem mnemonic_cmovbeRRm (p : Prefixes) (r : Reg) (rm : RM Reg) : (Instr.cmovbeRRm p r rm).mnemonic = .CMOVBE := rfl
@[simp] theorem mnemonic_cmovaRRm (p : Prefixes) (r : Reg) (rm : RM Reg) : (Instr.cmovaRRm p r rm).mnemonic = .CMOVA := rfl
@[simp] theorem mnemonic_cmovsRRm (p : Prefixes) (r : Reg) (rm : RM Reg) : (Instr.cmovsRRm p r rm).mnemonic = .CMOVS := rfl
@[simp] theorem mnemonic_cmovnsRRm (p : Prefixes) (r : Reg) (rm : RM Reg) : (Instr.cmovnsRRm p r rm).mnemonic = .CMOVNS := rfl
@[simp] theorem mnemonic_cmovpRRm (p : Prefixes) (r : Reg) (rm : RM Reg) : (Instr.cmovpRRm p r rm).mnemonic = .CMOVP := rfl
@[simp] theorem mnemonic_cmovnpRRm (p : Prefixes) (r : Reg) (rm : RM Reg) : (Instr.cmovnpRRm p r rm).mnemonic = .CMOVNP := rfl
@[simp] theorem mnemonic_cmovlRRm (p : Prefixes) (r : Reg) (rm : RM Reg) : (Instr.cmovlRRm p r rm).mnemonic = .CMOVL := rfl
@[simp] theorem mnemonic_cmovgeRRm (p : Prefixes) (r : Reg) (rm : RM Reg) : (Instr.cmovgeRRm p r rm).mnemonic = .CMOVGE := rfl
@[simp] theorem mnemonic_cmovleRRm (p : Prefixes) (r : Reg) (rm : RM Reg) : (Instr.cmovleRRm p r rm).mnemonic = .CMOVLE := rfl
@[simp] theorem mnemonic_cmovgRRm (p : Prefixes) (r : Reg) (rm : RM Reg) : (Instr.cmovgRRm p r rm).mnemonic = .CMOVG := rfl
@[simp] theorem mnemonic_bsfRRm (p : Prefixes) (r : Reg) (rm : RM Reg) : (Instr.bsfRRm p r rm).mnemonic = .BSF := rfl
@[simp] theorem mnemonic_bsrRRm (p : Prefixes) (r : Reg) (rm : RM Reg) : (Instr.bsrRRm p r rm).mnemonic = .BSR := rfl
@[simp] theorem mnemonic_bswapR32 (p : Prefixes) (r : Reg) : (Instr.bswapR32 p r).mnemonic = .BSWAP := rfl
@[simp] theorem mnemonic_btRmR (p : Prefixes) (rm : RM Reg) (r : Reg) : (Instr.btRmR p rm r).mnemonic = .BT := rfl
@[simp] theorem mnemonic_btRmImm8 (p : Prefixes) (rm : RM Reg) (v : Byte) : (Instr.btRmImm8 p rm v).mnemonic = .BT := rfl
@[simp] theorem mnemonic_btsRmR (p : Prefixes) (rm : RM Reg) (r : Reg) : (Instr.btsRmR p rm r).mnemonic = .BTS := rfl
@[simp] theorem mnemonic_btsRmImm8 (p : Prefixes) (rm : RM Reg) (v : Byte) : (Instr.btsRmImm8 p rm v).mnemonic = .BTS := rfl
@[simp] theorem mnemonic_btrRmR (p : Prefixes) (rm : RM Reg) (r : Reg) : (Instr.btrRmR p rm r).mnemonic = .BTR := rfl
@[simp] theorem mnemonic_btrRmImm8 (p : Prefixes) (rm : RM Reg) (v : Byte) : (Instr.btrRmImm8 p rm v).mnemonic = .BTR := rfl
@[simp] theorem mnemonic_btcRmR (p : Prefixes) (rm : RM Reg) (r : Reg) : (Instr.btcRmR p rm r).mnemonic = .BTC := rfl
@[simp] theorem mnemonic_btcRmImm8 (p : Prefixes) (rm : RM Reg) (v : Byte) : (Instr.btcRmImm8 p rm v).mnemonic = .BTC := rfl

end Sys2Proof.Machine
end

