-- ==== Sys2Proof/Laws/Exec.lean ====
section
/-! SUPPORT. What `exec` and `perform` can do, said once: every arm of the dispatch is `perform` of the handler of its mnemonic on the operand
list of its row's format (30_encoding.md R115), and a stage, a validation and a commit have the effects a statement speaks of. -/

namespace Sys2Proof.Machine

/-! ## One handler for each mnemonic -/

/-- A handler for operands that the mnemonic never has. -/
def noH : Handler := fun _ _ => .ok {}

/-- Two operands of one width. -/
def onTwo (o : Operands) (f : {w : Width} → Place w → Operand w → Handler) : Handler :=
  match o with
  | .two d s => f d s
  | _ => noH

/-- One operand. -/
def onOne (o : Operands) (f : {w : Width} → Place w → Handler) : Handler :=
  match o with
  | .one d => f d
  | _ => noH

/-- A destination and a byte. -/
def onByte (o : Operands) (f : {w : Width} → Place w → Operand .w8 → Handler) : Handler :=
  match o with
  | .byteSrc d s => f d s
  | _ => noH

/-- A bit index of either kind. -/
def onBit (o : Operands) (f : {w v : Width} → Place w → Operand v → Handler) : Handler :=
  match o with
  | .two d s => f d s
  | .byteSrc d s => f d s
  | _ => noH

/-- A source with a width of its own. -/
def onWiden (o : Operands) (f : {w v : Width} → Place w → Place v → Handler) : Handler :=
  match o with
  | .widen d s => f d s
  | _ => noH

/-- An immediate byte alone. -/
def onImm (o : Operands) (f : Byte → Handler) : Handler :=
  match o with
  | .imm (w := .w8) v => f v
  | _ => noH

/-- A relative target. -/
def onTarget (o : Operands) (f : Word → Handler) : Handler :=
  match o with
  | .target d => f d
  | _ => noH

/-- A relative target, or an r/m operand of width 32. -/
def onJump (o : Operands) (f : Word → Handler) (g : Place .w32 → Handler) : Handler :=
  match o with
  | .target d => f d
  | .one (w := .w32) p => g p
  | _ => noH

/-- The forms of IMUL. -/
def onImul (o : Operands) : Handler :=
  match o with
  | .one s => imulH s
  | .two d s => imul2H d s
  | .three d s v => imul3H d s v
  | _ => noH

/-- The form of BSWAP. -/
def onBswap (o : Operands) : Handler :=
  match o with
  | .one (w := .w32) d => bswapH d
  | _ => noH

/-- The form of LEA. -/
def onLea (o : Operands) : Handler :=
  match o with
  | .two d (.place (.mem e)) => leaH d e
  | _ => noH

/-- The forms of RET. -/
def onRet (o : Operands) : Handler :=
  match o with
  | .none => retH 0#16
  | .imm (w := .w16) v => retH v
  | _ => noH

/-- The handler of a mnemonic on an operand list. -/
def handlerFor (m : Mnemonic) (o : Operands) : Handler :=
  match m with
  | .ADD => onTwo o addH
  | .OR => onTwo o orH
  | .ADC => onTwo o adcH
  | .SBB => onTwo o sbbH
  | .AND => onTwo o andH
  | .SUB => onTwo o subH
  | .XOR => onTwo o xorH
  | .CMP => onTwo o cmpH
  | .INC => onOne o incH
  | .DEC => onOne o decH
  | .TEST => onTwo o testH
  | .NOT => onOne o notH
  | .NEG => onOne o negH
  | .MUL => onOne o mulH
  | .IMUL => onImul o
  | .DIV => onOne o divH
  | .IDIV => onOne o idivH
  | .MOV => onTwo o movH
  | .LEA => onLea o
  | .MOVZX => onWiden o movzxH
  | .MOVSX => onWiden o movsxH
  | .CBW => cbwH
  | .CWDE => cwdeH
  | .CWD => cwdH
  | .CDQ => cdqH
  | .CMPSB => cmpsH .w8
  | .CMPSW => cmpsH .w16
  | .CMPSD => cmpsH .w32
  | .CLC => flagH .CF false
  | .STC => flagH .CF true
  | .CMC => cmcH
  | .CLD => flagH .DF false
  | .STD => flagH .DF true
  | .AAM => onImm o aamH
  | .AAD => onImm o aadH
  | .ROL => onByte o rolH
  | .ROR => onByte o rorH
  | .RCL => onByte o rclH
  | .RCR => onByte o rcrH
  | .SHL => onByte o shlH
  | .SHR => onByte o shrH
  | .SAR => onByte o sarH
  | .CALL => onJump o callH callIndirectH
  | .RET => onRet o
  | .JMP => onJump o jmpH jmpIndirectH
  | .JO => onTarget o (jccH .O)
  | .JNO => onTarget o (jccH .NO)
  | .JB => onTarget o (jccH .B)
  | .JAE => onTarget o (jccH .AE)
  | .JE => onTarget o (jccH .E)
  | .JNE => onTarget o (jccH .NE)
  | .JBE => onTarget o (jccH .BE)
  | .JA => onTarget o (jccH .A)
  | .JS => onTarget o (jccH .S)
  | .JNS => onTarget o (jccH .NS)
  | .JP => onTarget o (jccH .P)
  | .JNP => onTarget o (jccH .NP)
  | .JL => onTarget o (jccH .L)
  | .JGE => onTarget o (jccH .GE)
  | .JLE => onTarget o (jccH .LE)
  | .JG => onTarget o (jccH .G)
  | .CMOVO => onTwo o (cmovH .O)
  | .CMOVNO => onTwo o (cmovH .NO)
  | .CMOVB => onTwo o (cmovH .B)
  | .CMOVAE => onTwo o (cmovH .AE)
  | .CMOVE => onTwo o (cmovH .E)
  | .CMOVNE => onTwo o (cmovH .NE)
  | .CMOVBE => onTwo o (cmovH .BE)
  | .CMOVA => onTwo o (cmovH .A)
  | .CMOVS => onTwo o (cmovH .S)
  | .CMOVNS => onTwo o (cmovH .NS)
  | .CMOVP => onTwo o (cmovH .P)
  | .CMOVNP => onTwo o (cmovH .NP)
  | .CMOVL => onTwo o (cmovH .L)
  | .CMOVGE => onTwo o (cmovH .GE)
  | .CMOVLE => onTwo o (cmovH .LE)
  | .CMOVG => onTwo o (cmovH .G)
  | .BSF => onTwo o bsfH
  | .BSR => onTwo o bsrH
  | .BSWAP => onBswap o
  | .BT => onBit o btH
  | .BTS => onBit o btsH
  | .BTR => onBit o btrH
  | .BTC => onBit o btcH

/-- Every arm of `exec` is `perform` of the handler of its mnemonic on its operands. -/
theorem exec_eq_perform (i : Instr) (s : State) : exec i s = perform i (handlerFor i.mnemonic (operandsOf i)) s := by
  cases i
  all_goals
    simp
    rfl

/-! ## Perform -/

theorem perform_ok {i : Instr} {h : Handler} {s : State} {e : Effect} (hh : h s (nextIp i s) = .ok e)
    (hv : validate s.mem e.mems = none) : perform i h s = .next (commit s e (nextIp i s)) := by
  simp only [perform, hh, hv]

theorem perform_error {i : Instr} {h : Handler} {s : State} {f : Fault} (hh : h s (nextIp i s) = .error f) :
    perform i h s = .fault f := by
  simp only [perform, hh, raise]

/-- All that `perform` can do when it gives a next state: the commit of a validated effect. -/
theorem perform_next {i : Instr} {h : Handler} {s t : State} :
    perform i h s = .next t ↔
      ∃ e, h s (nextIp i s) = .ok e ∧ validate s.mem e.mems = none ∧ t = commit s e (nextIp i s) := by
  cases hh : h s (nextIp i s) with
  | error f => simp [perform, hh, raise]
  | ok e =>
    cases hv : validate s.mem e.mems with
    | some f => simp [perform, hh, hv, raise]
    | none => simp [perform, hh, hv, eq_comm]

/-- All that `perform` can do when it faults: the handler's fault, or that of the validation. -/
theorem perform_fault {i : Instr} {h : Handler} {s : State} {f : Fault} :
    perform i h s = .fault f ↔
      h s (nextIp i s) = .error f ∨ ∃ e, h s (nextIp i s) = .ok e ∧ validate s.mem e.mems = some f := by
  cases hh : h s (nextIp i s) with
  | error g => simp [perform, hh, raise]
  | ok e =>
    cases hv : validate s.mem e.mems with
    | some g => simp [perform, hh, hv, raise]
    | none => simp [perform, hh, hv]

theorem perform_ne_refused (i : Instr) (h : Handler) (s : State) (r : Refusal) : perform i h s ≠ .refused r := by
  cases hh : h s (nextIp i s) with
  | error f => simp [perform, hh, raise]
  | ok e => cases hv : validate s.mem e.mems <;> simp [perform, hh, hv, raise]

/-! ## Validation and commit -/

@[simp] theorem validate_nil (x : AddressSpace) : validate x [] = none := rfl

theorem validate_one (x : AddressSpace) (m : MemWrite) : validate x [m] = x.check .write m.addr m.size := by
  unfold validate
  cases x.check .write m.addr m.size <;> rfl

theorem validate_eq_none {x : AddressSpace} {ms : List MemWrite} :
    validate x ms = none ↔ ∀ m ∈ ms, x.Admitted .write m.addr m.size := by
  induction ms with
  | nil => simp
  | cons m ms ih =>
    unfold validate
    cases h : x.check .write m.addr m.size with
    | none => simpa only [ih, List.forall_mem_cons, iff_and_self] using fun _ => AddressSpace.check_eq_none.1 h
    | some f =>
      simp only [reduceCtorEq, List.forall_mem_cons, false_iff, not_and]
      intro g
      rw [AddressSpace.check_eq_none.2 g] at h
      cases h

theorem read_commitMems_of_outside {m : Memory} {ws : List MemWrite} {b : Nat}
    (h : ∀ w ∈ ws, b < w.addr ∨ w.addr + w.size ≤ b) : Memory.read (commitMems m ws) b = Memory.read m b := by
  induction ws generalizing m with
  | nil => rfl
  | cons w ws ih =>
    rw [commitMems_cons, ih fun x hx => h x (by simp [hx]), Memory.read_writeLE_outside _ (h w (by simp))]

theorem mem_commitMems {m : Memory} {ws : List MemWrite} {c : Host.Cell} (h : c ∈ commitMems m ws) :
    (∃ w ∈ ws, w.addr ≤ c.1 ∧ c.1 < w.addr + w.size) ∨ c ∈ m := by
  induction ws generalizing m with
  | nil => exact .inr h
  | cons w ws ih =>
    rcases ih h with ⟨x, hx, g⟩ | h
    · exact .inl ⟨x, by simp [hx], g⟩
    · rcases Memory.mem_writeLE h with g | h
      · exact .inl ⟨w, by simp, g⟩
      · exact .inr h

theorem sameMemory_commit {s : State} {e : Effect} {n : Word} (h : e.mems = []) : SameMemory s (commit s e n) := by
  simp [SameMemory, h]

theorem regWritten_of_regs {w : Width} {s t : State} {x : View w} {v : BitVec w.bits} (h : t.regs = s.regs.writeView x v) :
    RegWritten s t x v :=
  { value := by rw [h, readView_writeView_self]
    outside := fun k hk => by rw [h, getLsbD_writeView _ _ _ hk]
    others := fun r hr => by rw [h, get_writeView_of_ne _ _ _ (by simpa using hr)] }

theorem memWritten_of_bytes {s t : State} {a n v : Nat} (hm : t.mem.maps = s.mem.maps)
    (hb : t.mem.bytes = Memory.writeLE s.mem.bytes a n v) : MemWritten s t a n v :=
  { bytes := fun k hk => by rw [hb, Memory.read_writeLE_inside _ hk]
    outside := fun b hb' => by rw [hb, Memory.read_writeLE_outside _ hb']
    maps := hm }

/-- A staged write, committed, is written and nothing else is. -/
theorem written_commit {w : Width} {s : State} {e : Effect} {n : Word} {p : Place w} {v : BitVec w.bits}
    (hr : e.regs = (stage s p v).regs) (hm : e.mems = (stage s p v).mems) : Written s (commit s e n) p v := by
  cases p with
  | reg x => exact ⟨regWritten_of_regs (by simp [hr, stage]), sameMemory_commit (by simp [hm, stage])⟩
  | mem ea => exact ⟨memWritten_of_bytes rfl (by simp [hm, stage]), by simp [hr, stage]⟩

/-- A staged write to an admitted place passes validation. -/
theorem validate_stage {w : Width} {s : State} {p : Place w} (v : BitVec w.bits) (h : canWrite s p = true) :
    validate s.mem (stage s p v).mems = none := by
  cases p with
  | reg x => rfl
  | mem ea =>
    simp only [canWrite, decide_eq_true_eq] at h
    simpa [stage, validate_eq_none] using h

end Sys2Proof.Machine
end

