-- ==== Sys2Proof/Laws/Handlers.lean ====
section
/-! SUPPORT. What the shared handler shapes give once their operands are read, and the next state `perform` makes of each. -/

namespace Sys2Proof.Machine

@[simp] theorem except_ok_bind {ε α β : Type} (a : α) (f : α → Except ε β) : (Except.ok a >>= f) = f a := rfl
@[simp] theorem except_error_bind {ε α β : Type} (e : ε) (f : α → Except ε β) : ((Except.error e : Except ε α) >>= f) = .error e := rfl

theorem except_bind_ok {ε α β : Type} {x : Except ε α} {f : α → Except ε β} {b : β} :
    (x >>= f) = .ok b ↔ ∃ a, x = .ok a ∧ f a = .ok b := by cases x <;> simp

/-- A read-modify-write completes: its result is written, its flags are committed. -/
theorem perform_binary {w : Width} {f : BitVec w.bits → BitVec w.bits → Flags → BitVec w.bits × List (Flag × Bool)} {i : Instr}
    {dst : Place w} {src : Operand w} {s : State} {a b : BitVec w.bits} (ha : readPlace s dst = .ok a)
    (hb : readOperand s src = .ok b) (hw : canWrite s dst = true) :
    ∃ t, perform i (binary f dst src) s = .next t ∧ Written s t dst (f a b s.flags).1 ∧ Advanced i s t ∧
      t.flags = commitFlags s.flags (f a b s.flags).2 := by
  have h : binary f dst src s (nextIp i s) = .ok ((stage s dst (f a b s.flags).1).withFlags (f a b s.flags).2) := by
    simp [binary, ha, hb]
  refine ⟨_, perform_ok h (validate_stage _ hw), written_commit rfl rfl, ?_, ?_⟩ <;> cases dst <;> simp [Advanced, nextIp, stage]

/-- A compare completes: only flags and EIP change. -/
theorem perform_compare {w : Width} {f : BitVec w.bits → BitVec w.bits → List (Flag × Bool)} {i : Instr}
    {dst : Place w} {src : Operand w} {s : State} {a b : BitVec w.bits} (ha : readPlace s dst = .ok a)
    (hb : readOperand s src = .ok b) :
    ∃ t, perform i (compare f dst src) s = .next t ∧ t.regs = s.regs ∧ SameMemory s t ∧ Advanced i s t ∧
      t.flags = commitFlags s.flags (f a b) := by
  have h : compare f dst src s (nextIp i s) = .ok { flags := f a b } := by simp [compare, ha, hb]
  exact ⟨_, perform_ok h rfl, by simp, sameMemory_commit rfl, by simp [Advanced, nextIp], by simp⟩

/-- A one-operand instruction completes. -/
theorem perform_unary {w : Width} {f : BitVec w.bits → BitVec w.bits × List (Flag × Bool)} {i : Instr} {dst : Place w} {s : State}
    {a : BitVec w.bits} (ha : readPlace s dst = .ok a) (hw : canWrite s dst = true) :
    ∃ t, perform i (unary f dst) s = .next t ∧ Written s t dst (f a).1 ∧ Advanced i s t ∧
      t.flags = commitFlags s.flags (f a).2 := by
  have h : unary f dst s (nextIp i s) = .ok ((stage s dst (f a).1).withFlags (f a).2) := by simp [unary, ha]
  refine ⟨_, perform_ok h (validate_stage _ hw), written_commit rfl rfl, ?_, ?_⟩ <;> cases dst <;> simp [Advanced, nextIp, stage]

/-- An instruction that stages one write to a place and flags completes. -/
theorem perform_stage {w : Width} {i : Instr} {h : Handler} {s : State} {p : Place w} {v : BitVec w.bits}
    {fs : List (Flag × Bool)} (hh : h s (nextIp i s) = .ok ((stage s p v).withFlags fs)) (hw : canWrite s p = true) :
    ∃ t, perform i h s = .next t ∧ Written s t p v ∧ Advanced i s t ∧ t.flags = commitFlags s.flags fs := by
  refine ⟨_, perform_ok hh (validate_stage _ hw), written_commit rfl rfl, ?_, ?_⟩ <;> cases p <;> simp [Advanced, nextIp, stage]

/-- A shift or rotate completes; a masked count of 0 writes the old value back and no flag. -/
theorem perform_shiftBy {w : Width} {m : Mnemonic} {f : BitVec w.bits → Nat → Flags → (Flag → Bool) → Shifted w} {i : Instr}
    {dst : Place w} {cnt : Operand .w8} {s : State} {d : BitVec w.bits} {n : Byte} (hd : readPlace s dst = .ok d)
    (hn : readOperand s cnt = .ok n) (hw : canWrite s dst = true) :
    ∃ t, perform i (shiftBy m f dst cnt) s = .next t ∧ Advanced i s t ∧
      if n.toNat % 32 = 0 then Written s t dst d ∧ t.flags = s.flags
      else
        Written s t dst (f d (n.toNat % 32) s.flags (undefFlag m (some w) [d.toNat, n.toNat] s.flags)).1 ∧
          t.flags = commitFlags s.flags (f d (n.toNat % 32) s.flags (undefFlag m (some w) [d.toNat, n.toNat] s.flags)).2 := by
  have hc : (n &&& 0x1F#8).toNat = n.toNat % 32 := by
    rw [BitVec.toNat_and]; exact Nat.and_two_pow_sub_one_eq_mod _ 5
  by_cases h0 : n.toNat % 32 = 0
  · have h : shiftBy m f dst cnt s (nextIp i s) = .ok ((stage s dst d).withFlags []) := by
      simp only [shiftBy, hd, hn, except_ok_bind]
      change (if (n &&& 0x1F#8).toNat = 0 then _ else _) = _
      rw [hc, if_pos h0]
      simp [Effect.withFlags]
    obtain ⟨t, h1, h2, h3, h4⟩ := perform_stage h hw
    exact ⟨t, h1, h3, by rw [if_pos h0]; exact ⟨h2, h4⟩⟩
  · have h : shiftBy m f dst cnt s (nextIp i s) =
        .ok ((stage s dst (f d (n.toNat % 32) s.flags (undefFlag m (some w) [d.toNat, n.toNat] s.flags)).1).withFlags
          (f d (n.toNat % 32) s.flags (undefFlag m (some w) [d.toNat, n.toNat] s.flags)).2) := by
      simp only [shiftBy, hd, hn, except_ok_bind]
      change (if (n &&& 0x1F#8).toNat = 0 then _ else Except.ok (Effect.withFlags (stage s dst
        (f d (n &&& 0x1F#8).toNat s.flags (undefFlag m (some w) [d.toNat, n.toNat] s.flags)).1) _)) = _
      rw [hc, if_neg h0]
    obtain ⟨t, h1, h2, h3, h4⟩ := perform_stage h hw
    exact ⟨t, h1, h3, by rw [if_neg h0]; exact ⟨h2, h4⟩⟩

/-- Storing what a memory place already holds changes no byte, and no register. -/
theorem written_self {w : Width} {s t : State} {p : Place w} {v : BitVec w.bits} (hr : readPlace s p = .ok v)
    (h : Written s t p v) : t.regs = s.regs ∧ SameMemory s t := by
  cases p with
  | reg x =>
    obtain ⟨⟨h1, h2, h3⟩, h4⟩ := h
    refine ⟨?_, h4⟩
    have hv : s.regs.readView x = v := Except.ok.inj hr
    rw [← writeView_readView_self s.regs x, hv]
    apply RegFile.ext_get
    intro r
    by_cases hx : r = x.cell
    swap
    · rw [get_writeView_of_ne _ _ _ hx, h3 r (by simpa using hx)]
    subst hx
    have e : (t.regs.writeView x v) = t.regs := by rw [← h1, writeView_readView_self]
    rw [← e]
    apply BitVec.eq_of_getLsbD_eq
    intro k hk
    by_cases hc : x.covers k = false
    · rw [getLsbD_writeView _ _ _ hc, getLsbD_writeView _ _ _ hc, h2 k hc]
    · cases x with
      | b q =>
        cases hq : isHigh8 q <;> simp only [View.covers, hq, if_true, Bool.false_eq_true, if_false, Bool.not_eq_false,
          Bool.and_eq_true, decide_eq_true_eq] at hc
        · simp [RegFile.writeView, View.cell, hq, BitVec.getLsbD_append, hc]
        · simp [RegFile.writeView, View.cell, hq, BitVec.getLsbD_append, show ¬ k < 8 by omega, show k - 8 < 8 by omega]
      | w q =>
        simp only [View.covers, Bool.not_eq_false, decide_eq_true_eq] at hc
        simp [RegFile.writeView, View.cell, BitVec.getLsbD_append, hc]
      | d q => simp [RegFile.writeView, View.cell]
  | mem e =>
    obtain ⟨⟨h1, h2, h3⟩, h4⟩ := h
    refine ⟨h4, h3, fun b => ?_⟩
    obtain ⟨-, rfl⟩ := memRead_ok hr
    by_cases hb : b < (e.address s.regs).toNat ∨ (e.address s.regs).toNat + w.bytes ≤ b
    · exact h2 b hb
    · obtain ⟨k, rfl⟩ : ∃ k, b = (e.address s.regs).toNat + k := ⟨b - (e.address s.regs).toNat, by omega⟩
      have hk : k < w.bytes := by omega
      rw [h1 k hk]
      apply BitVec.eq_of_toNat_eq
      have hlt := Memory.readLE_lt s.mem.bytes (e.address s.regs).toNat w.bytes
      have hw : 256 ^ w.bytes = 2 ^ w.bits := by cases w <;> rfl
      rw [BitVec.toNat_ofNat, BitVec.toNat_ofNat, ← hw, Nat.mod_eq_of_lt hlt]
      exact Memory.readLE_byte _ hk

end Sys2Proof.Machine
end

