-- ==== Sys2Proof/Tests/Slice0.lean ====
section
/-! SUPPORT. The model's own tests. Expected words and results are the spec's: the encoding tables of 30_encoding.md R102 to R120 written out byte
by byte, the vectors of 95_test_vectors.md (a theorem `test_V41_01` is vector V41-01) and the examples of the rules. The witnesses at
the end show, for each statement that has hypotheses, a state and operands that meet all of them. -/

namespace Sys2Proof.Machine.Tests

/-! ## Small states -/

/-- All cells 0. -/
def r0 : RegFile := { eax := 0, ecx := 0, edx := 0, ebx := 0, esp := 0, ebp := 0, esi := 0, edi := 0 }

/-- All flags clear. -/
def f0 : Flags := { CF := false, PF := false, AF := false, ZF := false, SF := false, OF := false, DF := false }

/-- The conventions of 95_test_vectors.md: a code page r-x and a data page rw-. -/
def std : List Mapping := [⟨0x401000, 0x1000, ⟨true, false, true⟩⟩, ⟨0x402000, 0x1000, ⟨true, true, false⟩⟩]

/-- A stack page, then the pages of `std`. -/
def stk : List Mapping := ⟨0x12F000, 0x1000, ⟨true, true, false⟩⟩ :: std

/-- A state with code at EIP and data bytes. -/
def box (maps : List Mapping) (eip : Word) (code : List Byte) (regs : RegFile) (flags : Flags) (data : List Host.Cell) : State :=
  { regs := regs
    eip := eip
    flags := flags
    mem := { maps := maps, bytes := storeBytes (data.foldl (fun m c => Memory.write m c.1 c.2) []) eip.toNat code } }

/-- The outcome is a next state that passes a check. -/
def runsTo (r : StepResult) (p : State → Bool) : Bool :=
  match r with
  | .next t => p t
  | _ => false

/-- The outcome is this fault. -/
def faultsWith (r : StepResult) (f : Fault) : Bool :=
  match r with
  | .fault g => g == f
  | _ => false

theorem next_of_runsTo {r : StepResult} {p : State → Bool} (h : runsTo r p = true) : ∃ t, r = .next t ∧ p t = true := by
  cases r with
  | next t => exact ⟨t, rfl, h⟩
  | fault f => cases h
  | refused q => cases h

theorem fault_of_faultsWith {r : StepResult} {f : Fault} (h : faultsWith r f = true) : r = .fault f := by
  cases r with
  | next t => cases h
  | fault g => exact congrArg _ (eq_of_beq h)
  | refused q => cases h

/-- Each byte string decodes to its instruction with no byte left, and is what the encoder gives. -/
def decodesAll (l : List (List Byte × Instr)) : Bool := l.all fun x => decode x.1 == .got x.2 [] && encode x.2 == x.1

/-- Each byte string is refused with its verdict. -/
def refusedAll (v : Reject) (l : List (List Byte)) : Bool :=
  l.all fun x =>
    match decode x with
    | .refuse w _ => w == v
    | _ => false

/-! ## Ill-formed terms: each is refused, by one check -/

/-- R107: a repeated prefix; two segment overrides, equal or not. -/
theorem test_wf_prefixes :
    ([.addRmR [.lock, .lock] (.mem (.ind .eax)) .eax, .addRmR [.opsize, .opsize] (.reg .eax) .eax,
      .addRmR [.seg .cs, .seg .cs] (.reg .eax) .eax, .addRmR [.seg .cs, .lock, .seg .ds] (.mem (.ind .eax)) .eax]
      : List Instr).all (fun i => !i.wf) = true := by decide

/-- R103: `66` on a row of width 8, on a relative branch, on MOVZX of a word; a CBW without it. -/
theorem test_wf_opsize :
    ([.addRm8R8 [.opsize] (.reg .al) .cl, .jneRel8 [.opsize] 0x10#8, .retImm16 [.opsize] 8#16, .cbw [], .cwd [], .cmpsw []]
      : List Instr).all (fun i => !i.wf) = true := by decide

/-- R105: LOCK with a register destination, and on mnemonics that do not allow it. -/
theorem test_wf_lock :
    ([.addRmR [.lock] (.reg .eax) .eax, .movRmR [.lock] (.mem (.ind .eax)) .eax, .cmpRmR [.lock] (.mem (.ind .eax)) .eax,
      .btRmR [.lock] (.mem (.ind .eax)) .eax, .clc [.lock]] : List Instr).all (fun i => !i.wf) = true := by decide

/-- R110, R111: memory forms that their encoding cannot name. -/
theorem test_wf_mem :
    ([.ind .esp, .ind .ebp, .sib ⟨.x1, some .esp⟩ .eax, .sib ⟨.x1, none⟩ .ebp, .sibAbs ⟨.x2, some .esp⟩ 0#32, .disp8 .esp 0#8,
      .sibDisp8 ⟨.x4, some .esp⟩ .eax 0#8, .disp32 .esp 0#32, .sibDisp32 ⟨.x8, some .esp⟩ .eax 0#32] : List Mem).all
      (fun m => !(Instr.incRm [] (.mem m)).wf) = true := by decide

/-- R113: a 16-bit immediate without `66`, a 32-bit one with it. -/
theorem test_wf_imm :
    ([.addEaxImm [] (.i16 1#16), .addEaxImm [.opsize] (.i32 1#32), .imulRRmImm [] .eax (.reg .ecx) (.i16 1#16)]
      : List Instr).all (fun i => !i.wf) = true := by decide

/-- The same terms with the fault mended are well formed. -/
theorem test_wf_mended :
    ([.addRmR [.lock, .opsize, .seg .ss] (.mem (.ind .eax)) .eax, .addRm8R8 [] (.reg .al) .cl, .cbw [.opsize], .cwd [.opsize],
      .cmpsw [.opsize], .movRmR [] (.mem (.ind .eax)) .eax, .incRm [] (.mem (.sib ⟨.x1, none⟩ .esp)),
      .incRm [] (.mem (.disp8 .ebp 0#8)), .incRm [] (.mem (.sibDisp8 ⟨.x2, some .ebp⟩ .ebp 0#8)), .addEaxImm [] (.i32 1#32),
      .addEaxImm [.opsize] (.i16 1#16)] : List Instr).all (fun i => i.wf) = true := by decide

/-! ## Decoding: every constructor, from words written out from the tables -/

/-- ADD -/
theorem test_decode_addRm8R8 : decodesAll
    [([0xF0, 0x00, 0x09], .addRm8R8 [.lock] (.mem (.ind .ecx)) .cl),
     ([0x66, 0x01, 0xE7], .addRmR [.opsize] (.reg .edi) .esp),
     ([0x02, 0x3D, 0x11, 0x20, 0x40, 0x80], .addR8Rm8 [] .bh (.mem (.abs 0x80402011#32))),
     ([0x2E, 0x03, 0xD1], .addRRm [.seg .cs] .edx (.reg .ecx)),
     ([0x04, 0x85], .addAlImm8 [] 0x85#8),
     ([0x66, 0x05, 0x6A, 0x87], .addEaxImm [.opsize] (.i16 0x876A#16)),
     ([0xF0, 0x80, 0x04, 0x24, 0x87], .addRm8Imm8 [.lock] (.mem (.sib ⟨.x1, none⟩ .esp)) 0x87#8),
     ([0x81, 0xC5, 0x28, 0x43, 0x65, 0x87], .addRmImm [] (.reg .ebp) (.i32 0x87654328#32)),
     ([0xF0, 0x83, 0x04, 0xF5, 0x14, 0x20, 0x40, 0x80, 0x89], .addRmImm8 [.lock] (.mem (.sibAbs ⟨.x8, some .esi⟩ 0x80402014#32)) 0x89#8)] = true := by decide

/-- OR -/
theorem test_decode_orRm8R8 : decodesAll
    [([0x08, 0xE7], .orRm8R8 [] (.reg .bh) .ah),
     ([0x2E, 0x09, 0x7D, 0xF5], .orRmR [.seg .cs] (.mem (.disp8 .ebp 0xF5#8)) .edi),
     ([0x0A, 0xD1], .orR8Rm8 [] .dl (.reg .cl)),
     ([0x0B, 0x6C, 0x6D, 0xF6], .orRRm [] .ebp (.mem (.sibDisp8 ⟨.x2, some .ebp⟩ .ebp 0xF6#8))),
     ([0x0C, 0x8E], .orAlImm8 [] 0x8E#8),
     ([0x0D, 0x2F, 0x43, 0x65, 0x87], .orEaxImm [] (.i32 0x8765432F#32)),
     ([0x80, 0xCD, 0x90], .orRm8Imm8 [] (.reg .ch) 0x90#8),
     ([0xF0, 0x81, 0x8C, 0x20, 0x18, 0x20, 0x40, 0x80, 0x31, 0x43, 0x65, 0x87], .orRmImm [.lock] (.mem (.sibDisp32 ⟨.x1, none⟩ .eax 0x80402018#32)) (.i32 0x87654331#32)),
     ([0x2E, 0x66, 0x83, 0xCF, 0x92], .orRmImm8 [.seg .cs, .opsize] (.reg .edi) 0x92#8)] = true := by decide

/-- ADC -/
theorem test_decode_adcRm8R8 : decodesAll
    [([0xF0, 0x10, 0x39], .adcRm8R8 [.lock] (.mem (.ind .ecx)) .bh),
     ([0x11, 0xD1], .adcRmR [] (.reg .ecx) .edx),
     ([0x12, 0x2D, 0x1A, 0x20, 0x40, 0x80], .adcR8Rm8 [] .ch (.mem (.abs 0x8040201A#32))),
     ([0x66, 0x13, 0xC3], .adcRRm [.opsize] .eax (.reg .ebx)),
     ([0x14, 0x97], .adcAlImm8 [] 0x97#8),
     ([0x15, 0x38, 0x43, 0x65, 0x87], .adcEaxImm [] (.i32 0x87654338#32)),
     ([0x2E, 0x80, 0x14, 0x24, 0x99], .adcRm8Imm8 [.seg .cs] (.mem (.sib ⟨.x1, none⟩ .esp)) 0x99#8),
     ([0x66, 0x81, 0xD7, 0x7E, 0x87], .adcRmImm [.opsize] (.reg .edi) (.i16 0x877E#16)),
     ([0xF0, 0x83, 0x14, 0xF5, 0x1D, 0x20, 0x40, 0x80, 0x9B], .adcRmImm8 [.lock] (.mem (.sibAbs ⟨.x8, some .esi⟩ 0x8040201D#32)) 0x9B#8)] = true := by decide

/-- SBB -/
theorem test_decode_sbbRm8R8 : decodesAll
    [([0x18, 0xD1], .sbbRm8R8 [] (.reg .cl) .dl),
     ([0xF0, 0x19, 0x6D, 0xFE], .sbbRmR [.lock] (.mem (.disp8 .ebp 0xFE#8)) .ebp),
     ([0x1A, 0xC3], .sbbR8Rm8 [] .al (.reg .bl)),
     ([0x1B, 0x5C, 0x6D, 0xFF], .sbbRRm [] .ebx (.mem (.sibDisp8 ⟨.x2, some .ebp⟩ .ebp 0xFF#8))),
     ([0x2E, 0x1C, 0xA0], .sbbAlImm8 [.seg .cs] 0xA0#8),
     ([0x1D, 0x41, 0x43, 0x65, 0x87], .sbbEaxImm [] (.i32 0x87654341#32)),
     ([0x80, 0xDF, 0xA2], .sbbRm8Imm8 [] (.reg .bh) 0xA2#8),
     ([0xF0, 0x81, 0x9C, 0x20, 0x21, 0x20, 0x40, 0x80, 0x43, 0x43, 0x65, 0x87], .sbbRmImm [.lock] (.mem (.sibDisp32 ⟨.x1, none⟩ .eax 0x80402021#32)) (.i32 0x87654343#32)),
     ([0x83, 0xD9, 0xA4], .sbbRmImm8 [] (.reg .ecx) 0xA4#8)] = true := by decide

/-- AND -/
theorem test_decode_andRm8R8 : decodesAll
    [([0xF0, 0x20, 0x29], .andRm8R8 [.lock] (.mem (.ind .ecx)) .ch),
     ([0x66, 0x21, 0xC3], .andRmR [.opsize] (.reg .ebx) .eax),
     ([0x2E, 0x22, 0x1D, 0x23, 0x20, 0x40, 0x80], .andR8Rm8 [.seg .cs] .bl (.mem (.abs 0x80402023#32))),
     ([0x23, 0xF5], .andRRm [] .esi (.reg .ebp)),
     ([0x24, 0xA9], .andAlImm8 [] 0xA9#8),
     ([0x66, 0x25, 0x8E, 0x87], .andEaxImm [.opsize] (.i16 0x878E#16)),
     ([0xF0, 0x80, 0x24, 0x24, 0xAB], .andRm8Imm8 [.lock] (.mem (.sib ⟨.x1, none⟩ .esp)) 0xAB#8),
     ([0x81, 0xE1, 0x4C, 0x43, 0x65, 0x87], .andRmImm [] (.reg .ecx) (.i32 0x8765434C#32)),
     ([0xF0, 0x83, 0x24, 0xF5, 0x26, 0x20, 0x40, 0x80, 0xAD], .andRmImm8 [.lock] (.mem (.sibAbs ⟨.x8, some .esi⟩ 0x80402026#32)) 0xAD#8)] = true := by decide

/-- SUB -/
theorem test_decode_subRm8R8 : decodesAll
    [([0x2E, 0x28, 0xC3], .subRm8R8 [.seg .cs] (.reg .bl) .al),
     ([0xF0, 0x29, 0x5D, 0xF7], .subRmR [.lock] (.mem (.disp8 .ebp 0xF7#8)) .ebx),
     ([0x2A, 0xF5], .subR8Rm8 [] .dh (.reg .ch)),
     ([0x2B, 0x4C, 0x6D, 0xF8], .subRRm [] .ecx (.mem (.sibDisp8 ⟨.x2, some .ebp⟩ .ebp 0xF8#8))),
     ([0x2C, 0xB2], .subAlImm8 [] 0xB2#8),
     ([0x2D, 0x53, 0x43, 0x65, 0x87], .subEaxImm [] (.i32 0x87654353#32)),
     ([0x80, 0xE9, 0xB4], .subRm8Imm8 [] (.reg .cl) 0xB4#8),
     ([0x2E, 0x81, 0xAC, 0x20, 0x2A, 0x20, 0x40, 0x80, 0x55, 0x43, 0x65, 0x87], .subRmImm [.seg .cs] (.mem (.sibDisp32 ⟨.x1, none⟩ .eax 0x8040202A#32)) (.i32 0x87654355#32)),
     ([0x66, 0x83, 0xEB, 0xB6], .subRmImm8 [.opsize] (.reg .ebx) 0xB6#8)] = true := by decide

/-- XOR -/
theorem test_decode_xorRm8R8 : decodesAll
    [([0xF0, 0x30, 0x19], .xorRm8R8 [.lock] (.mem (.ind .ecx)) .bl),
     ([0x31, 0xF5], .xorRmR [] (.reg .ebp) .esi),
     ([0x32, 0x0D, 0x2C, 0x20, 0x40, 0x80], .xorR8Rm8 [] .cl (.mem (.abs 0x8040202C#32))),
     ([0x66, 0x33, 0xE7], .xorRRm [.opsize] .esp (.reg .edi)),
     ([0x34, 0xBB], .xorAlImm8 [] 0xBB#8),
     ([0x2E, 0x35, 0x5C, 0x43, 0x65, 0x87], .xorEaxImm [.seg .cs] (.i32 0x8765435C#32)),
     ([0xF0, 0x80, 0x34, 0x24, 0xBD], .xorRm8Imm8 [.lock] (.mem (.sib ⟨.x1, none⟩ .esp)) 0xBD#8),
     ([0x66, 0x81, 0xF3, 0xA2, 0x87], .xorRmImm [.opsize] (.reg .ebx) (.i16 0x87A2#16)),
     ([0xF0, 0x83, 0x34, 0xF5, 0x2F, 0x20, 0x40, 0x80, 0xBF], .xorRmImm8 [.lock] (.mem (.sibAbs ⟨.x8, some .esi⟩ 0x8040202F#32)) 0xBF#8)] = true := by decide

/-- CMP -/
theorem test_decode_cmpRm8R8 : decodesAll
    [([0x38, 0xF5], .cmpRm8R8 [] (.reg .ch) .dh),
     ([0x39, 0x4D, 0xF0], .cmpRmR [] (.mem (.disp8 .ebp 0xF0#8)) .ecx),
     ([0x3A, 0xE7], .cmpR8Rm8 [] .ah (.reg .bh)),
     ([0x2E, 0x3B, 0x7C, 0x6D, 0xF1], .cmpRRm [.seg .cs] .edi (.mem (.sibDisp8 ⟨.x2, some .ebp⟩ .ebp 0xF1#8))),
     ([0x3C, 0xC4], .cmpAlImm8 [] 0xC4#8),
     ([0x3D, 0x65, 0x43, 0x65, 0x87], .cmpEaxImm [] (.i32 0x87654365#32)),
     ([0x80, 0xFB, 0xC6], .cmpRm8Imm8 [] (.reg .bl) 0xC6#8),
     ([0x81, 0xBC, 0x20, 0x33, 0x20, 0x40, 0x80, 0x67, 0x43, 0x65, 0x87], .cmpRmImm [] (.mem (.sibDisp32 ⟨.x1, none⟩ .eax 0x80402033#32)) (.i32 0x87654367#32)),
     ([0x83, 0xFD, 0xC8], .cmpRmImm8 [] (.reg .ebp) 0xC8#8)] = true := by decide

/-- INC, DEC, TEST, NOT, NEG -/
theorem test_decode_incR : decodesAll
    [([0x41], .incR [] .ecx),
     ([0x2E, 0x66, 0x4C], .decR [.seg .cs, .opsize] .esp),
     ([0xF0, 0xFE, 0x05, 0x35, 0x20, 0x40, 0x80], .incRm8 [.lock] (.mem (.abs 0x80402035#32))),
     ([0xFE, 0xC9], .decRm8 [] (.reg .cl)),
     ([0xF0, 0xFF, 0x04, 0x8B], .incRm [.lock] (.mem (.sib ⟨.x4, some .ecx⟩ .ebx))),
     ([0x66, 0xFF, 0xCB], .decRm [.opsize] (.reg .ebx)),
     ([0xF6, 0x04, 0x24, 0xCF], .testRm8Imm8 [] (.mem (.sib ⟨.x1, none⟩ .esp)) 0xCF#8),
     ([0xF6, 0xD5], .notRm8 [] (.reg .ch)),
     ([0x2E, 0xF6, 0x1C, 0xF5, 0x38, 0x20, 0x40, 0x80], .negRm8 [.seg .cs] (.mem (.sibAbs ⟨.x8, some .esi⟩ 0x80402038#32)))] = true := by decide

/-- MUL, IMUL, DIV, IDIV, TEST, NOT, NEG -/
theorem test_decode_mulRm8 : decodesAll
    [([0xF6, 0xE7], .mulRm8 [] (.reg .bh)),
     ([0xF6, 0x6D, 0xF9], .imulRm8 [] (.mem (.disp8 .ebp 0xF9#8))),
     ([0xF6, 0xF1], .divRm8 [] (.reg .cl)),
     ([0xF6, 0x7C, 0x6D, 0xFA], .idivRm8 [] (.mem (.sibDisp8 ⟨.x2, some .ebp⟩ .ebp 0xFA#8))),
     ([0x66, 0xF7, 0xC3, 0xBA, 0x87], .testRmImm [.opsize] (.reg .ebx) (.i16 0x87BA#16)),
     ([0xF0, 0xF7, 0x97, 0x3B, 0x20, 0x40, 0x80], .notRm [.lock] (.mem (.disp32 .edi 0x8040203B#32))),
     ([0x2E, 0xF7, 0xDD], .negRm [.seg .cs] (.reg .ebp)),
     ([0xF7, 0xA4, 0x20, 0x3C, 0x20, 0x40, 0x80], .mulRm [] (.mem (.sibDisp32 ⟨.x1, none⟩ .eax 0x8040203C#32))),
     ([0x66, 0xF7, 0xEF], .imulRm [.opsize] (.reg .edi))] = true := by decide

/-- DIV, IDIV, IMUL, TEST -/
theorem test_decode_divRm : decodesAll
    [([0xF7, 0x31], .divRm [] (.mem (.ind .ecx))),
     ([0xF7, 0xF9], .idivRm [] (.reg .ecx)),
     ([0x0F, 0xAF, 0x2D, 0x3E, 0x20, 0x40, 0x80], .imulRRm [] .ebp (.mem (.abs 0x8040203E#32))),
     ([0x66, 0x69, 0xC3, 0xC2, 0x87], .imulRRmImm [.opsize] .eax (.reg .ebx) (.i16 0x87C2#16)),
     ([0x2E, 0x6B, 0x1C, 0x8B, 0xDF], .imulRRmImm8 [.seg .cs] .ebx (.mem (.sib ⟨.x4, some .ecx⟩ .ebx)) 0xDF#8),
     ([0x84, 0xF5], .testRm8R8 [] (.reg .ch) .dh),
     ([0x85, 0x0C, 0x24], .testRmR [] (.mem (.sib ⟨.x1, none⟩ .esp)) .ecx),
     ([0xA8, 0xE2], .testAlImm8 [] 0xE2#8),
     ([0xA9, 0x83, 0x43, 0x65, 0x87], .testEaxImm [] (.i32 0x87654383#32))] = true := by decide

/-- MOV -/
theorem test_decode_movRm8R8 : decodesAll
    [([0x88, 0xD1], .movRm8R8 [] (.reg .cl) .dl),
     ([0x89, 0x6D, 0xF2], .movRmR [] (.mem (.disp8 .ebp 0xF2#8)) .ebp),
     ([0x2E, 0x8A, 0xC3], .movR8Rm8 [.seg .cs] .al (.reg .bl)),
     ([0x8B, 0x5C, 0x6D, 0xF3], .movRRm [] .ebx (.mem (.sibDisp8 ⟨.x2, some .ebp⟩ .ebp 0xF3#8))),
     ([0xB6, 0x84], .movR8Imm8 [] .dh 0x84#8),
     ([0xB9, 0x89, 0x43, 0x65, 0x87], .movRImm [] .ecx (.i32 0x87654389#32)),
     ([0xC6, 0xC7, 0x86], .movRm8Imm8 [] (.reg .bh) 0x86#8),
     ([0xC7, 0x84, 0x20, 0x45, 0x20, 0x40, 0x80, 0x8B, 0x43, 0x65, 0x87], .movRmImm [] (.mem (.sibDisp32 ⟨.x1, none⟩ .eax 0x80402045#32)) (.i32 0x8765438B#32)),
     ([0xA0, 0x1B, 0xA1, 0x40, 0x00], .movAlMoffs [] 0x40A11B#32),
     ([0x2E, 0xA1, 0x1C, 0xA1, 0x40, 0x00], .movEaxMoffs [.seg .cs] 0x40A11C#32),
     ([0xA2, 0x1D, 0xA1, 0x40, 0x00], .movMoffsAl [] 0x40A11D#32),
     ([0xA3, 0x1E, 0xA1, 0x40, 0x00], .movMoffsEax [] 0x40A11E#32)] = true := by decide

/-- LEA, MOVZX, MOVSX, CBW, CWDE, CWD, CDQ -/
theorem test_decode_leaRM : decodesAll
    [([0x8D, 0x35, 0x47, 0x20, 0x40, 0x80], .leaRM [] .esi (.abs 0x80402047#32)),
     ([0x0F, 0xB6, 0x0C, 0x8B], .movzxRRm8 [] .ecx (.mem (.sib ⟨.x4, some .ecx⟩ .ebx))),
     ([0x66, 0x0F, 0xB7, 0xE7], .movzxRRm16 [.opsize] .esp (.reg .edi)),
     ([0x0F, 0xBE, 0x3C, 0x24], .movsxRRm8 [] .edi (.mem (.sib ⟨.x1, none⟩ .esp))),
     ([0x2E, 0x0F, 0xBF, 0xD1], .movsxRRm16 [.seg .cs] .edx (.reg .ecx)),
     ([0x66, 0x98], .cbw [.opsize]),
     ([0x98], .cwde []),
     ([0x66, 0x99], .cwd [.opsize]),
     ([0x99], .cdq [])] = true := by decide

/-- CMPSB, CMPSW, CMPSD, CLC, STC, CMC, CLD, STD, AAM -/
theorem test_decode_cmpsb : decodesAll
    [([0xA6], .cmpsb []),
     ([0x66, 0xA7], .cmpsw [.opsize]),
     ([0x2E, 0xA7], .cmpsd [.seg .cs]),
     ([0xF8], .clc []),
     ([0xF9], .stc []),
     ([0xF5], .cmc []),
     ([0xFC], .cld []),
     ([0xFD], .std []),
     ([0xD4, 0x9D], .aamImm8 [] 0x9D#8)] = true := by decide

/-- AAD, ROL, ROR -/
theorem test_decode_aadImm8 : decodesAll
    [([0x2E, 0xD5, 0x9E], .aadImm8 [.seg .cs] 0x9E#8),
     ([0xC0, 0x04, 0x8B, 0x9F], .rolRm8Imm8 [] (.mem (.sib ⟨.x4, some .ecx⟩ .ebx)) 0x9F#8),
     ([0xC1, 0xC1, 0xA0], .rolRmImm8 [] (.reg .ecx) 0xA0#8),
     ([0xD0, 0x04, 0x24], .rolRm8One [] (.mem (.sib ⟨.x1, none⟩ .esp))),
     ([0x66, 0xD1, 0xC3], .rolRmOne [.opsize] (.reg .ebx)),
     ([0xD2, 0x04, 0xF5, 0x53, 0x20, 0x40, 0x80], .rolRm8Cl [] (.mem (.sibAbs ⟨.x8, some .esi⟩ 0x80402053#32))),
     ([0xD3, 0xC5], .rolRmCl [] (.reg .ebp)),
     ([0x2E, 0xC0, 0x4D, 0xF4, 0xA5], .rorRm8Imm8 [.seg .cs] (.mem (.disp8 .ebp 0xF4#8)) 0xA5#8),
     ([0x66, 0xC1, 0xCF, 0xA6], .rorRmImm8 [.opsize] (.reg .edi) 0xA6#8),
     ([0xD0, 0x4C, 0x6D, 0xF5], .rorRm8One [] (.mem (.sibDisp8 ⟨.x2, some .ebp⟩ .ebp 0xF5#8))),
     ([0xD1, 0xC9], .rorRmOne [] (.reg .ecx)),
     ([0xD2, 0x8F, 0x56, 0x20, 0x40, 0x80], .rorRm8Cl [] (.mem (.disp32 .edi 0x80402056#32)))] = true := by decide

/-- ROR, RCL, RCR -/
theorem test_decode_rorRmCl : decodesAll
    [([0x66, 0xD3, 0xCB], .rorRmCl [.opsize] (.reg .ebx)),
     ([0xC0, 0x94, 0x20, 0x57, 0x20, 0x40, 0x80, 0xAB], .rclRm8Imm8 [] (.mem (.sibDisp32 ⟨.x1, none⟩ .eax 0x80402057#32)) 0xAB#8),
     ([0x2E, 0xC1, 0xD5, 0xAC], .rclRmImm8 [.seg .cs] (.reg .ebp) 0xAC#8),
     ([0xD0, 0x11], .rclRm8One [] (.mem (.ind .ecx))),
     ([0x66, 0xD1, 0xD7], .rclRmOne [.opsize] (.reg .edi)),
     ([0xD2, 0x15, 0x59, 0x20, 0x40, 0x80], .rclRm8Cl [] (.mem (.abs 0x80402059#32))),
     ([0xD3, 0xD1], .rclRmCl [] (.reg .ecx)),
     ([0xC0, 0x1C, 0x8B, 0xB1], .rcrRm8Imm8 [] (.mem (.sib ⟨.x4, some .ecx⟩ .ebx)) 0xB1#8),
     ([0x66, 0xC1, 0xDB, 0xB2], .rcrRmImm8 [.opsize] (.reg .ebx) 0xB2#8),
     ([0x2E, 0xD0, 0x1C, 0x24], .rcrRm8One [.seg .cs] (.mem (.sib ⟨.x1, none⟩ .esp))),
     ([0xD1, 0xDD], .rcrRmOne [] (.reg .ebp)),
     ([0xD2, 0x1C, 0xF5, 0x5C, 0x20, 0x40, 0x80], .rcrRm8Cl [] (.mem (.sibAbs ⟨.x8, some .esi⟩ 0x8040205C#32)))] = true := by decide

/-- RCR, SHL, SHR -/
theorem test_decode_rcrRmCl : decodesAll
    [([0x66, 0xD3, 0xDF], .rcrRmCl [.opsize] (.reg .edi)),
     ([0xC0, 0x65, 0xFD, 0xB7], .shlRm8Imm8 [] (.mem (.disp8 .ebp 0xFD#8)) 0xB7#8),
     ([0xC1, 0xE1, 0xB8], .shlRmImm8 [] (.reg .ecx) 0xB8#8),
     ([0xD0, 0x64, 0x6D, 0xFE], .shlRm8One [] (.mem (.sibDisp8 ⟨.x2, some .ebp⟩ .ebp 0xFE#8))),
     ([0x2E, 0x66, 0xD1, 0xE3], .shlRmOne [.seg .cs, .opsize] (.reg .ebx)),
     ([0xD2, 0xA7, 0x5F, 0x20, 0x40, 0x80], .shlRm8Cl [] (.mem (.disp32 .edi 0x8040205F#32))),
     ([0xD3, 0xE5], .shlRmCl [] (.reg .ebp)),
     ([0xC0, 0xAC, 0x20, 0x60, 0x20, 0x40, 0x80, 0xBD], .shrRm8Imm8 [] (.mem (.sibDisp32 ⟨.x1, none⟩ .eax 0x80402060#32)) 0xBD#8),
     ([0x66, 0xC1, 0xEF, 0xBE], .shrRmImm8 [.opsize] (.reg .edi) 0xBE#8),
     ([0xD0, 0x29], .shrRm8One [] (.mem (.ind .ecx))),
     ([0xD1, 0xE9], .shrRmOne [] (.reg .ecx)),
     ([0x2E, 0xD2, 0x2D, 0x62, 0x20, 0x40, 0x80], .shrRm8Cl [.seg .cs] (.mem (.abs 0x80402062#32)))] = true := by decide

/-- SHR, SAR, CALL -/
theorem test_decode_shrRmCl : decodesAll
    [([0x66, 0xD3, 0xEB], .shrRmCl [.opsize] (.reg .ebx)),
     ([0xC0, 0x3C, 0x8B, 0xC3], .sarRm8Imm8 [] (.mem (.sib ⟨.x4, some .ecx⟩ .ebx)) 0xC3#8),
     ([0xC1, 0xFD, 0xC4], .sarRmImm8 [] (.reg .ebp) 0xC4#8),
     ([0xD0, 0x3C, 0x24], .sarRm8One [] (.mem (.sib ⟨.x1, none⟩ .esp))),
     ([0x66, 0xD1, 0xFF], .sarRmOne [.opsize] (.reg .edi)),
     ([0xD2, 0x3C, 0xF5, 0x65, 0x20, 0x40, 0x80], .sarRm8Cl [] (.mem (.sibAbs ⟨.x8, some .esi⟩ 0x80402065#32))),
     ([0x2E, 0xD3, 0xF9], .sarRmCl [.seg .cs] (.reg .ecx)),
     ([0xE8, 0xBE, 0xF0, 0xFF, 0xFF], .callRel32 [] 0xFFFFF0BE#32),
     ([0xFF, 0xD3], .callRm32 [] (.reg .ebx))] = true := by decide

/-- RET, JMP, JO, JNO -/
theorem test_decode_ret : decodesAll
    [([0xC3], .ret []),
     ([0xC2, 0x61, 0xA2], .retImm16 [] 0xA261#16),
     ([0xEB, 0xE6], .jmpRel8 [] 0xE6#8),
     ([0xE9, 0xC3, 0xF0, 0xFF, 0xFF], .jmpRel32 [] 0xFFFFF0C3#32),
     ([0x2E, 0xFF, 0xA4, 0x20, 0x69, 0x20, 0x40, 0x80], .jmpRm32 [.seg .cs] (.mem (.sibDisp32 ⟨.x1, none⟩ .eax 0x80402069#32))),
     ([0x70, 0xE9], .joRel8 [] 0xE9#8),
     ([0x0F, 0x80, 0xC6, 0xF0, 0xFF, 0xFF], .joRel32 [] 0xFFFFF0C6#32),
     ([0x71, 0x91], .jnoRel8 [] 0x91#8),
     ([0x0F, 0x81, 0xC8, 0xF0, 0xFF, 0xFF], .jnoRel32 [] 0xFFFFF0C8#32)] = true := by decide

/-- JB, JAE, JE, JNE, JBE -/
theorem test_decode_jbRel8 : decodesAll
    [([0x72, 0x93], .jbRel8 [] 0x93#8),
     ([0x0F, 0x82, 0xCA, 0xF0, 0xFF, 0xFF], .jbRel32 [] 0xFFFFF0CA#32),
     ([0x2E, 0x73, 0x95], .jaeRel8 [.seg .cs] 0x95#8),
     ([0x0F, 0x83, 0xCC, 0xF0, 0xFF, 0xFF], .jaeRel32 [] 0xFFFFF0CC#32),
     ([0x74, 0x97], .jeRel8 [] 0x97#8),
     ([0x0F, 0x84, 0xCE, 0xF0, 0xFF, 0xFF], .jeRel32 [] 0xFFFFF0CE#32),
     ([0x75, 0x99], .jneRel8 [] 0x99#8),
     ([0x0F, 0x85, 0xD0, 0xF0, 0xFF, 0xFF], .jneRel32 [] 0xFFFFF0D0#32),
     ([0x76, 0x9B], .jbeRel8 [] 0x9B#8),
     ([0x2E, 0x0F, 0x86, 0xD2, 0xF0, 0xFF, 0xFF], .jbeRel32 [.seg .cs] 0xFFFFF0D2#32)] = true := by decide

/-- JA, JS, JNS, JP, JNP -/
theorem test_decode_jaRel8 : decodesAll
    [([0x77, 0x9D], .jaRel8 [] 0x9D#8),
     ([0x0F, 0x87, 0xD4, 0xF0, 0xFF, 0xFF], .jaRel32 [] 0xFFFFF0D4#32),
     ([0x78, 0x9F], .jsRel8 [] 0x9F#8),
     ([0x0F, 0x88, 0xD6, 0xF0, 0xFF, 0xFF], .jsRel32 [] 0xFFFFF0D6#32),
     ([0x79, 0xA1], .jnsRel8 [] 0xA1#8),
     ([0x0F, 0x89, 0xD8, 0xF0, 0xFF, 0xFF], .jnsRel32 [] 0xFFFFF0D8#32),
     ([0x2E, 0x7A, 0xA3], .jpRel8 [.seg .cs] 0xA3#8),
     ([0x0F, 0x8A, 0xDA, 0xF0, 0xFF, 0xFF], .jpRel32 [] 0xFFFFF0DA#32),
     ([0x7B, 0xA5], .jnpRel8 [] 0xA5#8),
     ([0x0F, 0x8B, 0xDC, 0xF0, 0xFF, 0xFF], .jnpRel32 [] 0xFFFFF0DC#32)] = true := by decide

/-- JL, JGE, JLE, JG, CMOVO -/
theorem test_decode_jlRel8 : decodesAll
    [([0x7C, 0xA7], .jlRel8 [] 0xA7#8),
     ([0x0F, 0x8C, 0xDE, 0xF0, 0xFF, 0xFF], .jlRel32 [] 0xFFFFF0DE#32),
     ([0x7D, 0xA9], .jgeRel8 [] 0xA9#8),
     ([0x2E, 0x0F, 0x8D, 0xE0, 0xF0, 0xFF, 0xFF], .jgeRel32 [.seg .cs] 0xFFFFF0E0#32),
     ([0x7E, 0xAB], .jleRel8 [] 0xAB#8),
     ([0x0F, 0x8E, 0xE2, 0xF0, 0xFF, 0xFF], .jleRel32 [] 0xFFFFF0E2#32),
     ([0x7F, 0xAD], .jgRel8 [] 0xAD#8),
     ([0x0F, 0x8F, 0xE4, 0xF0, 0xFF, 0xFF], .jgRel32 [] 0xFFFFF0E4#32),
     ([0x0F, 0x40, 0xD1], .cmovoRRm [] .edx (.reg .ecx))] = true := by decide

/-- CMOVNO, CMOVB, CMOVAE, CMOVE, CMOVNE, CMOVBE, CMOVA, CMOVS, CMOVNS -/
theorem test_decode_cmovnoRRm : decodesAll
    [([0x0F, 0x41, 0xAF, 0x7A, 0x20, 0x40, 0x80], .cmovnoRRm [] .ebp (.mem (.disp32 .edi 0x8040207A#32))),
     ([0x2E, 0x66, 0x0F, 0x42, 0xC3], .cmovbRRm [.seg .cs, .opsize] .eax (.reg .ebx)),
     ([0x0F, 0x43, 0x9C, 0x20, 0x7B, 0x20, 0x40, 0x80], .cmovaeRRm [] .ebx (.mem (.sibDisp32 ⟨.x1, none⟩ .eax 0x8040207B#32))),
     ([0x0F, 0x44, 0xF5], .cmoveRRm [] .esi (.reg .ebp)),
     ([0x0F, 0x45, 0x09], .cmovneRRm [] .ecx (.mem (.ind .ecx))),
     ([0x66, 0x0F, 0x46, 0xE7], .cmovbeRRm [.opsize] .esp (.reg .edi)),
     ([0x0F, 0x47, 0x3D, 0x7D, 0x20, 0x40, 0x80], .cmovaRRm [] .edi (.mem (.abs 0x8040207D#32))),
     ([0x0F, 0x48, 0xD1], .cmovsRRm [] .edx (.reg .ecx)),
     ([0x2E, 0x0F, 0x49, 0x2C, 0x8B], .cmovnsRRm [.seg .cs] .ebp (.mem (.sib ⟨.x4, some .ecx⟩ .ebx)))] = true := by decide

/-- CMOVP, CMOVNP, CMOVL, CMOVGE, CMOVLE, CMOVG, BSF, BSR, BSWAP -/
theorem test_decode_cmovpRRm : decodesAll
    [([0x66, 0x0F, 0x4A, 0xC3], .cmovpRRm [.opsize] .eax (.reg .ebx)),
     ([0x0F, 0x4B, 0x1C, 0x24], .cmovnpRRm [] .ebx (.mem (.sib ⟨.x1, none⟩ .esp))),
     ([0x0F, 0x4C, 0xF5], .cmovlRRm [] .esi (.reg .ebp)),
     ([0x0F, 0x4D, 0x0C, 0xF5, 0x80, 0x20, 0x40, 0x80], .cmovgeRRm [] .ecx (.mem (.sibAbs ⟨.x8, some .esi⟩ 0x80402080#32))),
     ([0x66, 0x0F, 0x4E, 0xE7], .cmovleRRm [.opsize] .esp (.reg .edi)),
     ([0x0F, 0x4F, 0x7D, 0xF1], .cmovgRRm [] .edi (.mem (.disp8 .ebp 0xF1#8))),
     ([0x2E, 0x0F, 0xBC, 0xD1], .bsfRRm [.seg .cs] .edx (.reg .ecx)),
     ([0x0F, 0xBD, 0x6C, 0x6D, 0xF2], .bsrRRm [] .ebp (.mem (.sibDisp8 ⟨.x2, some .ebp⟩ .ebp 0xF2#8))),
     ([0x0F, 0xC8], .bswapR32 [] .eax)] = true := by decide

/-- BT, BTS, BTR, BTC -/
theorem test_decode_btRmR : decodesAll
    [([0x0F, 0xA3, 0x9F, 0x83, 0x20, 0x40, 0x80], .btRmR [] (.mem (.disp32 .edi 0x80402083#32)) .ebx),
     ([0x0F, 0xBA, 0xE5, 0xA0], .btRmImm8 [] (.reg .ebp) 0xA0#8),
     ([0xF0, 0x0F, 0xAB, 0x8C, 0x20, 0x84, 0x20, 0x40, 0x80], .btsRmR [.lock] (.mem (.sibDisp32 ⟨.x1, none⟩ .eax 0x80402084#32)) .ecx),
     ([0x66, 0x0F, 0xBA, 0xEF, 0xA2], .btsRmImm8 [.opsize] (.reg .edi) 0xA2#8),
     ([0x2E, 0x0F, 0xB3, 0x39], .btrRmR [.seg .cs] (.mem (.ind .ecx)) .edi),
     ([0x0F, 0xBA, 0xF1, 0xA4], .btrRmImm8 [] (.reg .ecx) 0xA4#8),
     ([0xF0, 0x0F, 0xBB, 0x2D, 0x86, 0x20, 0x40, 0x80], .btcRmR [.lock] (.mem (.abs 0x80402086#32)) .ebp),
     ([0x66, 0x0F, 0xBA, 0xFB, 0xA6], .btcRmImm8 [.opsize] (.reg .ebx) 0xA6#8)] = true := by decide

/-! ## Descriptors (40_execution.md R161): operands with their widths, a relative target resolved (30_encoding.md R114) -/

/-- Scenario C of the source: `E8 10 00 00 00` at 0x08048000 calls 0x08048015. -/
theorem test_descriptor_call :
    descriptorOf (.callRel32 [] 0x10#32) 0x08048000 = ⟨.CALL, none, [⟨.w32, .imm 0x08048015#32⟩], 5, []⟩ := by decide

/-- `75 FE` at 0x00401000 jumps to itself; `D5 FF` has an immediate of width 8, `C2 08 00` one of width 16. -/
theorem test_descriptor_imm :
    (descriptorOf (.jneRel8 [] 0xFE#8) 0x00401000).operands = [⟨.w32, .imm 0x00401000#32⟩] ∧
      (descriptorOf (.aadImm8 [] 0xFF#8) 0).operands = [⟨.w8, .imm 0xFF#8⟩] ∧
      (descriptorOf (.retImm16 [] 8#16) 0).operands = [⟨.w16, .imm 8#16⟩] := by decide

/-- `8D 44 8B 08` is LEA of EAX and [EBX + ECX * 4 + 8]; `0F B7 C1` is MOVZX of EAX and CX. -/
theorem test_descriptor_mem :
    (descriptorOf (.leaRM [] .eax (.sibDisp8 ⟨.x4, some .ecx⟩ .ebx 8#8)) 0).operands =
        [⟨.w32, .place (.reg (.d .eax))⟩, ⟨.w32, .place (.mem ⟨some .ebx, some .ecx, .x4, 8#32⟩)⟩] ∧
      (descriptorOf (.movzxRRm16 [] .eax (.reg .ecx)) 0).operands =
        [⟨.w32, .place (.reg (.d .eax))⟩, ⟨.w16, .place (.reg (.w .ecx))⟩] := by decide

/-! ## Refused encodings (30_encoding.md R140, with R103 to R107) -/

/-- UD2; LEA of a register; digits no row has of `FE`, `FF`, `C6`, `0F BA`; LOCK on a register, on MOV and on CMP. -/
theorem test_decode_invalid :
    refusedAll .invalidOpcode
      [[0x0F, 0x0B], [0x8D, 0xC0], [0xFE, 0xD0], [0xFF, 0xF8], [0xC6, 0xC8, 0x00], [0x0F, 0xBA, 0xC0, 0x00], [0xF0, 0x01, 0xC8],
        [0xF0, 0x89, 0x00], [0xF0, 0x39, 0x00]] = true := by decide

/-- `F2`, `F3`, `67`, FS, GS; a repeated `66`; two overrides; `66` on a byte row and on Jcc; PUSH, LES and an unlisted `0F` row. -/
theorem test_decode_unsupported :
    refusedAll .unsupportedInstruction
      [[0xF2, 0xA6], [0xF3, 0xA6], [0x67, 0x01, 0x00], [0x64, 0x01, 0x00], [0x65, 0x01, 0x00], [0x66, 0x66, 0x40],
        [0x2E, 0x3E, 0x40], [0x66, 0x00, 0xC8], [0x66, 0x75, 0x10], [0x50], [0xC4, 0x00], [0x0F, 0x05], [0xFF, 0xF0]]
      = true := by decide

/-! ## Steps -/

/-- `add al, bl` -/
theorem test_V41_01 : runsTo (step (box std 0x401000 [0x00, 0xD8] ({ r0 with eax := 0xFF, ebx := 0x1 }) f0 []))
    (fun t => t.eip == 0x401002 && t.regs.eax == 0x0 && t.flags.CF && t.flags.PF && t.flags.AF && t.flags.ZF && !t.flags.SF && !t.flags.OF && !t.flags.DF) = true := by decide

/-- `add eax, 0x7FFFFFFF` -/
theorem test_V41_02 : runsTo (step (box std 0x401000 [0x05, 0xFF, 0xFF, 0xFF, 0x7F] ({ r0 with eax := 0x1 }) f0 []))
    (fun t => t.eip == 0x401005 && t.regs.eax == 0x80000000 && !t.flags.CF && t.flags.PF && t.flags.AF && !t.flags.ZF && t.flags.SF && t.flags.OF && !t.flags.DF) = true := by decide

/-- `add byte ptr [eax], 1` -/
theorem test_V41_13 : runsTo (step (box std 0x401000 [0x80, 0x00, 0x01] ({ r0 with eax := 0x402000 }) f0 [(0x402000, 0x7F)]))
    (fun t => t.eip == 0x401003 && !t.flags.CF && !t.flags.PF && t.flags.AF && !t.flags.ZF && t.flags.SF && t.flags.OF && !t.flags.DF && bytesAt t.mem.bytes 0x402000 1 == [0x80]) = true := by decide

/-- `sub al, 1` -/
theorem test_V41_03 : runsTo (step (box std 0x401000 [0x2C, 0x01] r0 f0 []))
    (fun t => t.eip == 0x401002 && t.regs.eax == 0xFF && t.flags.CF && t.flags.PF && t.flags.AF && !t.flags.ZF && t.flags.SF && !t.flags.OF && !t.flags.DF) = true := by decide

/-- `sub ecx, edi` -/
theorem test_V41_16 : runsTo (step (box std 0x401000 [0x29, 0xF9] ({ r0 with ecx := 0x5, edi := 0x6 }) f0 []))
    (fun t => t.eip == 0x401002 && t.regs.ecx == 0xFFFFFFFF && t.flags.CF && t.flags.PF && t.flags.AF && !t.flags.ZF && t.flags.SF && !t.flags.OF && !t.flags.DF) = true := by decide

/-- `cmp eax, ebx` -/
theorem test_V41_04 : runsTo (step (box std 0x401000 [0x39, 0xD8] ({ r0 with eax := 0x80000000, ebx := 0x1 }) f0 []))
    (fun t => t.eip == 0x401002 && !t.flags.CF && t.flags.PF && t.flags.AF && !t.flags.ZF && !t.flags.SF && t.flags.OF && !t.flags.DF) = true := by decide

/-- `inc eax` -/
theorem test_V41_05 : runsTo (step (box std 0x401000 [0x40] ({ r0 with eax := 0x7FFFFFFF }) ({ f0 with CF := true }) []))
    (fun t => t.eip == 0x401001 && t.regs.eax == 0x80000000 && t.flags.CF && t.flags.PF && t.flags.AF && !t.flags.ZF && t.flags.SF && t.flags.OF && !t.flags.DF) = true := by decide

/-- `inc ax` -/
theorem test_V41_07 : runsTo (step (box std 0x401000 [0x66, 0x40] ({ r0 with eax := 0x1234FFFF }) f0 []))
    (fun t => t.eip == 0x401002 && t.regs.eax == 0x12340000 && !t.flags.CF && t.flags.PF && t.flags.AF && t.flags.ZF && !t.flags.SF && !t.flags.OF && !t.flags.DF) = true := by decide

/-- `dec ecx` -/
theorem test_V41_06 : runsTo (step (box std 0x401000 [0x49] r0 f0 []))
    (fun t => t.eip == 0x401001 && t.regs.ecx == 0xFFFFFFFF && !t.flags.CF && t.flags.PF && t.flags.AF && !t.flags.ZF && t.flags.SF && !t.flags.OF && !t.flags.DF) = true := by decide

/-- `dec al` -/
theorem test_V41_17 : runsTo (step (box std 0x401000 [0xFE, 0xC8] ({ r0 with eax := 0x10 }) f0 []))
    (fun t => t.eip == 0x401002 && t.regs.eax == 0xF && !t.flags.CF && t.flags.PF && t.flags.AF && !t.flags.ZF && !t.flags.SF && !t.flags.OF && !t.flags.DF) = true := by decide

/-- `adc al, 0` -/
theorem test_V41_08 : runsTo (step (box std 0x401000 [0x14, 0x00] ({ r0 with eax := 0xFF }) ({ f0 with CF := true }) []))
    (fun t => t.eip == 0x401002 && t.regs.eax == 0x0 && t.flags.CF && t.flags.PF && t.flags.AF && t.flags.ZF && !t.flags.SF && !t.flags.OF && !t.flags.DF) = true := by decide

/-- `adc ax, bx` -/
theorem test_V41_14 : runsTo (step (box std 0x401000 [0x66, 0x11, 0xD8] ({ r0 with eax := 0xAAAA8000, ebx := 0x8000 }) ({ f0 with CF := true }) []))
    (fun t => t.eip == 0x401003 && t.regs.eax == 0xAAAA0001 && t.flags.CF && !t.flags.PF && !t.flags.AF && !t.flags.ZF && !t.flags.SF && t.flags.OF && !t.flags.DF) = true := by decide

/-- `sbb eax, eax` -/
theorem test_V41_09 : runsTo (step (box std 0x401000 [0x19, 0xC0] ({ r0 with eax := 0x1234 }) ({ f0 with CF := true }) []))
    (fun t => t.eip == 0x401002 && t.regs.eax == 0xFFFFFFFF && t.flags.CF && t.flags.PF && t.flags.AF && !t.flags.ZF && t.flags.SF && !t.flags.OF && !t.flags.DF) = true := by decide

/-- `neg eax` -/
theorem test_V41_10 : runsTo (step (box std 0x401000 [0xF7, 0xD8] r0 ({ f0 with CF := true }) []))
    (fun t => t.eip == 0x401002 && !t.flags.CF && t.flags.PF && !t.flags.AF && t.flags.ZF && !t.flags.SF && !t.flags.OF && !t.flags.DF) = true := by decide

/-- `neg eax` -/
theorem test_V41_11 : runsTo (step (box std 0x401000 [0xF7, 0xD8] ({ r0 with eax := 0x80000000 }) f0 []))
    (fun t => t.eip == 0x401002 && t.flags.CF && t.flags.PF && !t.flags.AF && !t.flags.ZF && t.flags.SF && t.flags.OF && !t.flags.DF) = true := by decide

/-- `and eax, ebx` -/
theorem test_V42_01 : runsTo (step (box std 0x401000 [0x21, 0xD8] ({ r0 with eax := 0xF0F0, ebx := 0xFF00 }) ({ f0 with CF := true, AF := true, OF := true }) []))
    (fun t => t.eip == 0x401002 && t.regs.eax == 0xF000 && !t.flags.CF && t.flags.PF && t.flags.AF && !t.flags.ZF && !t.flags.SF && !t.flags.OF && !t.flags.DF) = true := by decide

/-- `or al, 0x80` -/
theorem test_V42_02 : runsTo (step (box std 0x401000 [0x0C, 0x80] ({ r0 with eax := 0x1 }) f0 []))
    (fun t => t.eip == 0x401002 && t.regs.eax == 0x81 && !t.flags.CF && t.flags.PF && !t.flags.AF && !t.flags.ZF && t.flags.SF && !t.flags.OF && !t.flags.DF) = true := by decide

/-- `xor ah, bh` -/
theorem test_V42_04 : runsTo (step (box std 0x401000 [0x30, 0xFC] ({ r0 with eax := 0x1200, ebx := 0x1200 }) f0 []))
    (fun t => t.eip == 0x401002 && t.regs.eax == 0x0 && !t.flags.CF && t.flags.PF && !t.flags.AF && t.flags.ZF && !t.flags.SF && !t.flags.OF && !t.flags.DF) = true := by decide

/-- `test al, 0x81` -/
theorem test_V42_05 : runsTo (step (box std 0x401000 [0xA8, 0x81] ({ r0 with eax := 0x80 }) ({ f0 with CF := true, AF := true }) []))
    (fun t => t.eip == 0x401002 && !t.flags.CF && !t.flags.PF && t.flags.AF && !t.flags.ZF && t.flags.SF && !t.flags.OF && !t.flags.DF) = true := by decide

/-- `test eax, 0x80000000` -/
theorem test_V42_06 : runsTo (step (box std 0x401000 [0xA9, 0x00, 0x00, 0x00, 0x80] ({ r0 with eax := 0x80000000 }) f0 []))
    (fun t => t.eip == 0x401005 && !t.flags.CF && t.flags.PF && !t.flags.AF && !t.flags.ZF && t.flags.SF && !t.flags.OF && !t.flags.DF) = true := by decide

/-- `not byte ptr [eax]` -/
theorem test_V42_07 : runsTo (step (box std 0x401000 [0xF6, 0x10] ({ r0 with eax := 0x402000 }) ({ f0 with ZF := true }) [(0x402000, 0x5A)]))
    (fun t => t.eip == 0x401002 && !t.flags.CF && !t.flags.PF && !t.flags.AF && t.flags.ZF && !t.flags.SF && !t.flags.OF && !t.flags.DF && bytesAt t.mem.bytes 0x402000 1 == [0xA5]) = true := by decide

/-- `mul ecx` -/
theorem test_V43_01 : runsTo (step (box std 0x401000 [0xF7, 0xE1] ({ r0 with eax := 0x80000000, ecx := 0x2 }) f0 []))
    (fun t => t.eip == 0x401002 && t.regs.eax == 0x0 && t.regs.edx == 0x1 && t.flags.CF && t.flags.OF) = true := by decide

/-- `mul bl` -/
theorem test_V43_03 : runsTo (step (box std 0x401000 [0xF6, 0xE3] ({ r0 with eax := 0x10, ebx := 0x10 }) f0 []))
    (fun t => t.eip == 0x401002 && t.regs.eax == 0x100 && t.flags.CF && t.flags.OF) = true := by decide

/-- `imul cl` -/
theorem test_V43_05 : runsTo (step (box std 0x401000 [0xF6, 0xE9] ({ r0 with eax := 0x80, ecx := 0x2 }) f0 []))
    (fun t => t.eip == 0x401002 && t.regs.eax == 0xFF00 && t.flags.CF && t.flags.OF) = true := by decide

/-- `imul eax, ecx, -1` -/
theorem test_V43_07 : runsTo (step (box std 0x401000 [0x6B, 0xC1, 0xFF] ({ r0 with ecx := 0x80000000 }) f0 []))
    (fun t => t.eip == 0x401003 && t.regs.eax == 0x80000000 && t.flags.CF && t.flags.OF) = true := by decide

/-- `imul eax, ecx` -/
theorem test_V43_06 : runsTo (step (box std 0x401000 [0x0F, 0xAF, 0xC1] ({ r0 with eax := 0xFFFFFFFE, ecx := 0x3 }) f0 []))
    (fun t => t.eip == 0x401003 && t.regs.eax == 0xFFFFFFFA) = true := by decide

/-- `div ecx` -/
theorem test_V43_09 : runsTo (step (box std 0x401000 [0xF7, 0xF1] ({ r0 with eax := 0x7, ecx := 0x2 }) f0 []))
    (fun t => t.eip == 0x401002 && t.regs.eax == 0x3 && t.regs.edx == 0x1) = true := by decide

/-- `div ecx` -/
theorem test_V43_11 : faultsWith (step (box std 0x401000 [0xF7, 0xF1] ({ r0 with ecx := 0x2, edx := 0x2 }) f0 [])) (.divideError 0x401000) = true := by decide

/-- `idiv cl` -/
theorem test_V43_14 : runsTo (step (box std 0x401000 [0xF6, 0xF9] ({ r0 with eax := 0xFFF9, ecx := 0x2 }) f0 []))
    (fun t => t.eip == 0x401002 && t.regs.eax == 0xFFFD) = true := by decide

/-- `idiv ecx` -/
theorem test_V43_13 : faultsWith (step (box std 0x401000 [0xF7, 0xF9] ({ r0 with eax := 0x80000000, ecx := 0xFFFFFFFF, edx := 0xFFFFFFFF }) f0 [])) (.divideError 0x401000) = true := by decide

/-- `shl eax, cl` -/
theorem test_V44_02 : runsTo (step (box std 0x401000 [0xD3, 0xE0] ({ r0 with eax := 0x40000001, ecx := 0x21 }) f0 []))
    (fun t => t.eip == 0x401002 && t.regs.eax == 0x80000002 && t.flags.SF && t.flags.OF) = true := by decide

/-- `shl al, cl` -/
theorem test_V44_05 : runsTo (step (box std 0x401000 [0xD2, 0xE0] ({ r0 with eax := 0x1, ecx := 0x9 }) f0 []))
    (fun t => t.eip == 0x401002 && t.regs.eax == 0x0 && t.flags.PF && t.flags.ZF) = true := by decide

/-- `shr eax, 1` -/
theorem test_V44_06 : runsTo (step (box std 0x401000 [0xD1, 0xE8] ({ r0 with eax := 0x80000001 }) f0 []))
    (fun t => t.eip == 0x401002 && t.regs.eax == 0x40000000 && t.flags.CF && t.flags.PF && t.flags.OF) = true := by decide

/-- `shr ax, 4` -/
theorem test_V44_07 : runsTo (step (box std 0x401000 [0x66, 0xC1, 0xE8, 0x04] ({ r0 with eax := 0xFFFF1234 }) f0 []))
    (fun t => t.eip == 0x401004 && t.regs.eax == 0xFFFF0123) = true := by decide

/-- `sar al, 9` -/
theorem test_V44_10 : runsTo (step (box std 0x401000 [0xC0, 0xF8, 0x09] ({ r0 with eax := 0x80 }) f0 []))
    (fun t => t.eip == 0x401003 && t.regs.eax == 0xFF && t.flags.CF && t.flags.PF && t.flags.SF) = true := by decide

/-- `sar eax, 1` -/
theorem test_V44_09 : runsTo (step (box std 0x401000 [0xD1, 0xF8] ({ r0 with eax := 0x80000001 }) f0 []))
    (fun t => t.eip == 0x401002 && t.regs.eax == 0xC0000000 && t.flags.CF && t.flags.PF && t.flags.SF) = true := by decide

/-- `rol eax, 1` -/
theorem test_V44_12 : runsTo (step (box std 0x401000 [0xD1, 0xC0] ({ r0 with eax := 0x80000000 }) f0 []))
    (fun t => t.eip == 0x401002 && t.regs.eax == 0x1 && t.flags.CF && t.flags.OF) = true := by decide

/-- `rol ax, cl` -/
theorem test_V44_13 : runsTo (step (box std 0x401000 [0x66, 0xD3, 0xC0] ({ r0 with eax := 0x8001, ecx := 0x10 }) f0 []))
    (fun t => t.eip == 0x401003 && t.flags.CF) = true := by decide

/-- `ror al, 1` -/
theorem test_V44_14 : runsTo (step (box std 0x401000 [0xD0, 0xC8] ({ r0 with eax := 0x1 }) f0 []))
    (fun t => t.eip == 0x401002 && t.regs.eax == 0x80 && t.flags.CF && t.flags.OF) = true := by decide

/-- `ror eax, cl` -/
theorem test_V44_15 : runsTo (step (box std 0x401000 [0xD3, 0xC8] ({ r0 with eax := 0xF, ecx := 0x4 }) f0 []))
    (fun t => t.eip == 0x401002 && t.regs.eax == 0xF0000000 && t.flags.CF) = true := by decide

/-- `rcl al, 1` -/
theorem test_V44_16 : runsTo (step (box std 0x401000 [0xD0, 0xD0] ({ r0 with eax := 0x80 }) f0 []))
    (fun t => t.eip == 0x401002 && t.regs.eax == 0x0 && t.flags.CF && t.flags.OF) = true := by decide

/-- `rcl al, 10` -/
theorem test_V44_17 : runsTo (step (box std 0x401000 [0xC0, 0xD0, 0x0A] ({ r0 with eax := 0x80 }) f0 []))
    (fun t => t.eip == 0x401003 && t.regs.eax == 0x0 && t.flags.CF) = true := by decide

/-- `rcr al, 1` -/
theorem test_V44_18 : runsTo (step (box std 0x401000 [0xD0, 0xD8] ({ r0 with eax := 0x1 }) ({ f0 with CF := true }) []))
    (fun t => t.eip == 0x401002 && t.regs.eax == 0x80 && t.flags.OF) = true := by decide

/-- `rcr eax, 1` -/
theorem test_V44_19 : runsTo (step (box std 0x401000 [0xC1, 0xD8, 0x01] ({ r0 with eax := 0x2 }) f0 []))
    (fun t => t.eip == 0x401003 && t.regs.eax == 0x1) = true := by decide

/-- `shl dword ptr [eax], 0` -/
theorem test_V44_20 : faultsWith (step (box [⟨0x401000, 0x1000, ⟨true, false, true⟩⟩, ⟨0x402000, 0x1000, ⟨true, false, false⟩⟩] 0x401000 [0xC1, 0x20, 0x00] ({ r0 with eax := 0x402000 }) f0 [])) (.memoryFault .permissionDenied 0x402000) = true := by decide

/-- `bsf eax, ecx` -/
theorem test_V45_01 : runsTo (step (box std 0x401000 [0x0F, 0xBC, 0xC1] ({ r0 with eax := 0x55, ecx := 0x100 }) f0 []))
    (fun t => t.eip == 0x401003 && t.regs.eax == 0x8) = true := by decide

/-- `bsf eax, ecx` -/
theorem test_V45_02 : runsTo (step (box std 0x401000 [0x0F, 0xBC, 0xC1] ({ r0 with eax := 0x55 }) f0 []))
    (fun t => t.eip == 0x401003 && t.flags.ZF) = true := by decide

/-- `bsr eax, ecx` -/
theorem test_V45_04 : runsTo (step (box std 0x401000 [0x0F, 0xBD, 0xC1] ({ r0 with ecx := 0x80000001 }) ({ f0 with ZF := true }) []))
    (fun t => t.eip == 0x401003 && t.regs.eax == 0x1F && !t.flags.ZF) = true := by decide

/-- `bswap eax` -/
theorem test_V45_05 : runsTo (step (box std 0x401000 [0x0F, 0xC8] ({ r0 with eax := 0x11223344 }) f0 []))
    (fun t => t.eip == 0x401002 && t.regs.eax == 0x44332211) = true := by decide

/-- `bt eax, ecx` -/
theorem test_V45_07 : runsTo (step (box std 0x401000 [0x0F, 0xA3, 0xC8] ({ r0 with eax := 0x2, ecx := 0x21 }) f0 []))
    (fun t => t.eip == 0x401003 && t.flags.CF) = true := by decide

/-- `bts dword ptr [eax], ecx` -/
theorem test_V45_09 : runsTo (step (box std 0x401000 [0x0F, 0xAB, 0x08] ({ r0 with eax := 0x402000, ecx := 0x23 }) f0 []))
    (fun t => t.eip == 0x401003 && bytesAt t.mem.bytes 0x402000 1 == [0x08]) = true := by decide

/-- `btr eax, 5` -/
theorem test_V45_10 : runsTo (step (box std 0x401000 [0x0F, 0xBA, 0xF0, 0x05] ({ r0 with eax := 0x20 }) f0 []))
    (fun t => t.eip == 0x401004 && t.regs.eax == 0x0 && t.flags.CF) = true := by decide

/-- `btc ax, 17` -/
theorem test_V45_11 : runsTo (step (box std 0x401000 [0x66, 0x0F, 0xBA, 0xF8, 0x11] ({ r0 with eax := 0xFFFF0000 }) f0 []))
    (fun t => t.eip == 0x401005 && t.regs.eax == 0xFFFF0002) = true := by decide

/-- `cmove ax, cx` -/
theorem test_V46_11 : runsTo (step (box std 0x401000 [0x66, 0x0F, 0x44, 0xC1] ({ r0 with eax := 0xAAAAAAAA, ecx := 0x12345678 }) ({ f0 with ZF := true }) []))
    (fun t => t.eip == 0x401004 && t.regs.eax == 0xAAAA5678) = true := by decide

/-- `cmove eax, dword ptr [0x10000000]` -/
theorem test_V46_12 : faultsWith (step (box std 0x401000 [0x0F, 0x44, 0x05, 0x00, 0x00, 0x00, 0x10] ({ r0 with eax := 0x1 }) f0 [])) (.memoryFault .unmapped 0x10000000) = true := by decide

/-- `call 0x00401015` -/
theorem test_V47_01 : runsTo (step (box stk 0x401000 [0xE8, 0x10, 0x00, 0x00, 0x00] ({ r0 with esp := 0x12FF80 }) f0 []))
    (fun t => t.eip == 0x401015 && t.regs.esp == 0x12FF7C && bytesAt t.mem.bytes 0x12FF7C 3 == [0x05, 0x10, 0x40]) = true := by decide

/-- `call dword ptr [esp]` -/
theorem test_V47_03 : runsTo (step (box stk 0x401000 [0xFF, 0x14, 0x24] ({ r0 with esp := 0x12FF80 }) f0 [(0x12FF81, 0x60), (0x12FF82, 0x40)]))
    (fun t => t.eip == 0x406000 && t.regs.esp == 0x12FF7C && bytesAt t.mem.bytes 0x12FF7C 3 == [0x03, 0x10, 0x40]) = true := by decide

/-- `call 0x00401005` -/
theorem test_V47_05 : faultsWith (step (box [⟨0x12F000, 0x1000, ⟨true, false, false⟩⟩, ⟨0x401000, 0x1000, ⟨true, false, true⟩⟩] 0x401000 [0xE8, 0x00, 0x00, 0x00, 0x00] ({ r0 with esp := 0x12FF80 }) f0 [])) (.memoryFault .permissionDenied 0x12FF7C) = true := by decide

/-- `ret` -/
theorem test_V47_07 : runsTo (step (box stk 0x401000 [0xC3] ({ r0 with esp := 0x12FF7C }) f0 [(0x12FF7C, 0x34), (0x12FF7D, 0x12), (0x12FF7E, 0x40)]))
    (fun t => t.eip == 0x401234 && t.regs.esp == 0x12FF80) = true := by decide

/-- `ret 8` -/
theorem test_V47_08 : runsTo (step (box stk 0x401000 [0xC2, 0x08, 0x00] ({ r0 with esp := 0x12FF7C }) f0 [(0x12FF7C, 0x34), (0x12FF7D, 0x12), (0x12FF7E, 0x40)]))
    (fun t => t.eip == 0x401234 && t.regs.esp == 0x12FF88) = true := by decide

/-- `jmp 0x00000005` -/
theorem test_V47_11 : runsTo (step (box [⟨0x12F000, 0x1000, ⟨true, true, false⟩⟩, ⟨0x402000, 0x1000, ⟨true, true, false⟩⟩, ⟨0x90000000, 0x1000, ⟨true, false, true⟩⟩] 0x90000000 [0xE9, 0x00, 0x00, 0x00, 0x70] r0 f0 []))
    (fun t => t.eip == 0x5) = true := by decide

/-- `jmp dword ptr [eax]` -/
theorem test_V47_13 : runsTo (step (box stk 0x401000 [0xFF, 0x20] ({ r0 with eax := 0x402000 }) f0 [(0x402001, 0x11), (0x402002, 0x40)]))
    (fun t => t.eip == 0x401100) = true := by decide

/-- `cmpsb` -/
theorem test_V48_01 : runsTo (step (box std 0x401000 [0xA6] ({ r0 with esi := 0x402000, edi := 0x402010 }) f0 [(0x402000, 0x41), (0x402010, 0x41)]))
    (fun t => t.eip == 0x401001 && t.regs.esi == 0x402001 && t.regs.edi == 0x402011 && t.flags.PF && t.flags.ZF) = true := by decide

/-- `cmpsd` -/
theorem test_V48_02 : runsTo (step (box std 0x401000 [0xA7] ({ r0 with esi := 0x402000, edi := 0x402010 }) ({ f0 with DF := true }) [(0x402000, 0x01), (0x402010, 0x02)]))
    (fun t => t.eip == 0x401001 && t.regs.esi == 0x401FFC && t.regs.edi == 0x40200C && t.flags.CF && t.flags.PF && t.flags.AF && t.flags.SF) = true := by decide

/-- `cmpsw` -/
theorem test_V48_03 : runsTo (step (box std 0x401000 [0x66, 0xA7] ({ r0 with esi := 0x402000, edi := 0x402010 }) f0 [(0x402001, 0x80), (0x402010, 0x01)]))
    (fun t => t.eip == 0x401002 && t.regs.esi == 0x402002 && t.regs.edi == 0x402012 && t.flags.PF && t.flags.AF && t.flags.OF) = true := by decide

/-- `cmpsb` -/
theorem test_V48_06 : faultsWith (step (box std 0x401000 [0xA6] ({ r0 with esi := 0x10000000, edi := 0x20000000 }) f0 [])) (.memoryFault .unmapped 0x10000000) = true := by decide

/-- `clc` -/
theorem test_V48_10 : runsTo (step (box std 0x401000 [0xF8] r0 ({ f0 with CF := true }) []))
    (fun t => t.eip == 0x401001 && !t.flags.CF) = true := by decide

/-- `stc` -/
theorem test_V48_11 : runsTo (step (box std 0x401000 [0xF9] r0 f0 []))
    (fun t => t.eip == 0x401001 && t.flags.CF) = true := by decide

/-- `cmc` -/
theorem test_V48_12 : runsTo (step (box std 0x401000 [0xF5] r0 ({ f0 with CF := true }) []))
    (fun t => t.eip == 0x401001 && !t.flags.CF) = true := by decide

/-- `cld` -/
theorem test_V48_13 : runsTo (step (box std 0x401000 [0xFC] r0 ({ f0 with DF := true }) []))
    (fun t => t.eip == 0x401001 && !t.flags.DF) = true := by decide

/-- `std` -/
theorem test_V48_14 : runsTo (step (box std 0x401000 [0xFD] r0 f0 []))
    (fun t => t.eip == 0x401001 && t.flags.DF) = true := by decide

/-- `aad 10` -/
theorem test_V49_03 : runsTo (step (box std 0x401000 [0xD5, 0x0A] ({ r0 with eax := 0xFFFF }) f0 []))
    (fun t => t.eip == 0x401002 && t.regs.eax == 0xF5 && t.flags.PF && t.flags.SF) = true := by decide

/-- `aam 10` -/
theorem test_V49_04 : runsTo (step (box std 0x401000 [0xD4, 0x0A] ({ r0 with eax := 0x25 }) f0 []))
    (fun t => t.eip == 0x401002 && t.regs.eax == 0x307) = true := by decide

/-- `aam 0` -/
theorem test_V49_05 : faultsWith (step (box std 0x401000 [0xD4, 0x00] ({ r0 with eax := 0x25 }) f0 [])) (.divideError 0x401000) = true := by decide

/-- `cbw` -/
theorem test_V49_06 : runsTo (step (box std 0x401000 [0x66, 0x98] ({ r0 with eax := 0x12340080 }) f0 []))
    (fun t => t.eip == 0x401002 && t.regs.eax == 0x1234FF80) = true := by decide

/-- `cwde` -/
theorem test_V49_07 : runsTo (step (box std 0x401000 [0x98] ({ r0 with eax := 0x12348000 }) f0 []))
    (fun t => t.eip == 0x401001 && t.regs.eax == 0xFFFF8000) = true := by decide

/-- `cwd` -/
theorem test_V49_08 : runsTo (step (box std 0x401000 [0x66, 0x99] ({ r0 with eax := 0x8000, edx := 0x11111111 }) f0 []))
    (fun t => t.eip == 0x401002 && t.regs.edx == 0x1111FFFF) = true := by decide

/-- `cdq` -/
theorem test_V49_09 : runsTo (step (box std 0x401000 [0x99] ({ r0 with eax := 0x7FFFFFFF, edx := 0xFFFFFFFF }) f0 []))
    (fun t => t.eip == 0x401001 && t.regs.edx == 0x0) = true := by decide

/-- `mov ah, 0x12` -/
theorem test_V49_10 : runsTo (step (box std 0x401000 [0xB4, 0x12] ({ r0 with eax := 0xAABBCCDD }) f0 []))
    (fun t => t.eip == 0x401002 && t.regs.eax == 0xAABB12DD) = true := by decide

/-- `mov dword ptr [0x00402000], eax` -/
theorem test_V49_15 : runsTo (step (box std 0x401000 [0xA3, 0x00, 0x20, 0x40, 0x00] ({ r0 with eax := 0x11223344 }) f0 []))
    (fun t => t.eip == 0x401005 && bytesAt t.mem.bytes 0x402000 4 == [0x44, 0x33, 0x22, 0x11]) = true := by decide

/-- `movzx eax, byte ptr [eax]` -/
theorem test_V49_19 : runsTo (step (box std 0x401000 [0x0F, 0xB6, 0x00] ({ r0 with eax := 0x402000 }) f0 [(0x402000, 0xF0)]))
    (fun t => t.eip == 0x401003 && t.regs.eax == 0xF0) = true := by decide

/-- `movzx eax, cx` -/
theorem test_V49_20 : runsTo (step (box std 0x401000 [0x0F, 0xB7, 0xC1] ({ r0 with ecx := 0xFFFF8001 }) f0 []))
    (fun t => t.eip == 0x401003 && t.regs.eax == 0x8001) = true := by decide

/-- `movsx eax, bh` -/
theorem test_V49_21 : runsTo (step (box std 0x401000 [0x0F, 0xBE, 0xC7] ({ r0 with ebx := 0x8000 }) f0 []))
    (fun t => t.eip == 0x401003 && t.regs.eax == 0xFFFFFF80) = true := by decide

/-- `movsx ax, bl` -/
theorem test_V49_22 : runsTo (step (box std 0x401000 [0x66, 0x0F, 0xBE, 0xC3] ({ r0 with eax := 0x12345678, ebx := 0x80 }) f0 []))
    (fun t => t.eip == 0x401004 && t.regs.eax == 0x1234FF80) = true := by decide

/-- `lea eax, [ecx+edx*4+0x10]` -/
theorem test_V49_24 : runsTo (step (box std 0x401000 [0x8D, 0x44, 0x91, 0x10] ({ r0 with ecx := 0x1000, edx := 0x3 }) f0 []))
    (fun t => t.eip == 0x401004 && t.regs.eax == 0x101C) = true := by decide

/-- `lea ax, [eax+1]` -/
theorem test_V49_25 : runsTo (step (box std 0x401000 [0x66, 0x8D, 0x40, 0x01] ({ r0 with eax := 0x1234FFFF }) f0 []))
    (fun t => t.eip == 0x401004 && t.regs.eax == 0x12340000) = true := by decide

/-- `lea eax, [esp+ebp*8-1]` -/
theorem test_VEA_14 : runsTo (step (box std 0x401000 [0x8D, 0x44, 0xEC, 0xFF] ({ r0 with esp := 0x1000, ebp := 0x2 }) f0 [(0x402000, 0x11), (0x402001, 0x11), (0x402002, 0x11), (0x402003, 0x11), (0x402004, 0x22), (0x402005, 0x22), (0x402006, 0x22), (0x402007, 0x22), (0x402008, 0x33), (0x402009, 0x33), (0x40200A, 0x33), (0x40200B, 0x33), (0x40200C, 0x44), (0x40200D, 0x44), (0x40200E, 0x44), (0x40200F, 0x44), (0x402010, 0x55), (0x402011, 0x55), (0x402012, 0x55), (0x402013, 0x55)]))
    (fun t => t.eip == 0x401004 && t.regs.eax == 0x100F) = true := by decide

/-- `mov eax, [0x00402001]` -/
theorem test_VM_01 : runsTo (step (box std 0x401000 [0x8B, 0x05, 0x01, 0x20, 0x40, 0x00] r0 f0 [(0x402000, 0x11), (0x402001, 0x22), (0x402002, 0x33), (0x402003, 0x44), (0x402004, 0x55), (0x402005, 0x66), (0x402006, 0x77), (0x402007, 0x88)]))
    (fun t => t.eip == 0x401006 && t.regs.eax == 0x55443322) = true := by decide

/-- `mov eax, [eax]` -/
theorem test_VM_05 : faultsWith (step (box [⟨0x401000, 0x1000, ⟨true, false, true⟩⟩, ⟨0xFFFFF000, 0x1000, ⟨true, true, false⟩⟩] 0x401000 [0x8B, 0x00] ({ r0 with eax := 0xFFFFFFFE }) f0 [])) (.memoryFault .unmapped 0x100000000) = true := by decide

/-- `add [eax], eax` -/
theorem test_VM_08 : faultsWith (step (box [⟨0x401000, 0x1000, ⟨true, false, true⟩⟩, ⟨0x402000, 0x1000, ⟨true, false, false⟩⟩] 0x401000 [0x01, 0x00] ({ r0 with eax := 0x402000 }) f0 [])) (.memoryFault .permissionDenied 0x402000) = true := by decide

/-- `mov [0x00402FFE], eax` -/
theorem test_VM_10 : faultsWith (step (box std 0x401000 [0x89, 0x05, 0xFE, 0x2F, 0x40, 0x00] ({ r0 with eax := 0x11223344 }) f0 [])) (.memoryFault .unmapped 0x403000) = true := by decide

/-- `lock add [eax], ecx` -/
theorem test_VM_11 : runsTo (step (box std 0x401000 [0xF0, 0x01, 0x08] ({ r0 with eax := 0x402000, ecx := 0x1 }) f0 [(0x402000, 0x29)]))
    (fun t => t.eip == 0x401003 && bytesAt t.mem.bytes 0x402000 1 == [0x2A]) = true := by decide

/-- `lock add dword ptr cs:[eax+ecx*8+0x00402000], 0x12345678, a 13-byte instruction; EAX=ECX=0, [0x00402000]4=0x11111111` -/
theorem test_VD_27 : runsTo (step (box std 0x401000 [0xF0, 0x2E, 0x81, 0x84, 0xC8, 0x00, 0x20, 0x40, 0x00, 0x78, 0x56, 0x34, 0x12] r0 f0 [(0x402000, 0x11), (0x402001, 0x11), (0x402002, 0x11), (0x402003, 0x11)]))
    (fun t => t.eip == 0x40100D && bytesAt t.mem.bytes 0x402000 4 == [0x89, 0x67, 0x45, 0x23]) = true := by decide

/-- `` -/
theorem test_VF_03 : faultsWith (step (box [⟨0x401000, 0x1000, ⟨true, false, true⟩⟩] 0x401FFD [0xB8, 0x44, 0x33] r0 f0 [])) (.memoryFault .unmapped 0x402000) = true := by decide

/-- `` -/
theorem test_VF_05 : faultsWith (step (box [⟨0x401000, 0x1000, ⟨true, false, true⟩⟩] 0x401FFF [0xF3] r0 f0 [])) (.unsupportedInstruction 0x401FFF [0xF3]) = true := by decide

/-- `` -/
theorem test_VF_09 : runsTo (step (box [⟨0xFFFFF000, 0x1000, ⟨true, false, true⟩⟩] 0xFFFFFFFF [0x40] r0 f0 []))
    (fun t => t.eip == 0x0 && t.regs.eax == 0x1) = true := by decide

/-! ## Conditions: the sixteen examples of 46_conditional_move.md R322 to R337 and 47_control_transfer.md R359 to R374 -/

/-- CMOVcc of opcode `0F op C1`, with flags for which it moves and for which it does not. -/
def cmovMoves (op : Byte) (x y : Flags) : Bool :=
  runsTo (step (box std 0x401000 [0x0F, op, 0xC1] { r0 with eax := 2, ecx := 0x12345678 } x []))
      (fun t => t.regs.eax == 0x12345678 && t.eip == 0x401003 && t.flags == x)
    && runsTo (step (box std 0x401000 [0x0F, op, 0xC1] { r0 with eax := 2, ecx := 0x12345678 } y []))
      (fun t => t.regs.eax == 2 && t.eip == 0x401003 && t.flags == y)

theorem test_cmov : (
    cmovMoves 0x40 { f0 with OF := true } f0
    && cmovMoves 0x41 f0 { f0 with OF := true }
    && cmovMoves 0x42 { f0 with CF := true } f0
    && cmovMoves 0x43 f0 { f0 with CF := true }
    && cmovMoves 0x44 { f0 with ZF := true } f0
    && cmovMoves 0x45 f0 { f0 with ZF := true }
    && cmovMoves 0x46 { f0 with ZF := true } f0
    && cmovMoves 0x47 f0 { f0 with CF := true }
    && cmovMoves 0x48 { f0 with SF := true } f0
    && cmovMoves 0x49 f0 { f0 with SF := true }
    && cmovMoves 0x4A { f0 with PF := true } f0
    && cmovMoves 0x4B f0 { f0 with PF := true }
    && cmovMoves 0x4C { f0 with SF := true } { f0 with SF := true, OF := true }
    && cmovMoves 0x4D { f0 with SF := true, OF := true } { f0 with OF := true }
    && cmovMoves 0x4E { f0 with OF := true } { f0 with SF := true, OF := true }
    && cmovMoves 0x4F { f0 with SF := true, OF := true } { f0 with ZF := true }) = true := by decide

/-- Jcc of opcode `op 10`, with flags for which it jumps and for which it does not. -/
def jccJumps (op : Byte) (x y : Flags) : Bool :=
  runsTo (step (box std 0x401000 [op, 0x10] r0 x [])) (fun t => t.eip == 0x401012 && t.flags == x)
    && runsTo (step (box std 0x401000 [op, 0x10] r0 y [])) (fun t => t.eip == 0x401002 && t.flags == y)

theorem test_jcc : (
    jccJumps 0x70 { f0 with OF := true } f0
    && jccJumps 0x71 f0 { f0 with OF := true }
    && jccJumps 0x72 { f0 with CF := true } f0
    && jccJumps 0x73 f0 { f0 with CF := true }
    && jccJumps 0x74 { f0 with ZF := true } f0
    && jccJumps 0x75 f0 { f0 with ZF := true }
    && jccJumps 0x76 { f0 with CF := true } f0
    && jccJumps 0x77 f0 { f0 with ZF := true }
    && jccJumps 0x78 { f0 with SF := true } f0
    && jccJumps 0x79 f0 { f0 with SF := true }
    && jccJumps 0x7A { f0 with PF := true } f0
    && jccJumps 0x7B f0 { f0 with PF := true }
    && jccJumps 0x7C { f0 with OF := true } f0
    && jccJumps 0x7D f0 { f0 with SF := true }
    && jccJumps 0x7E { f0 with ZF := true } f0
    && jccJumps 0x7F f0 { f0 with SF := true }) = true := by decide

/-! ## Host calls (95_test_vectors.md S-E1 to S-E4) and `mmap` (20_memory.md R62) -/

/-- The data page of the conventions alone. -/
def dataOnly : AddressSpace := { maps := [⟨0x402000, 0x1000, ⟨true, true, false⟩⟩], bytes := [] }

theorem test_SE1 : hostRead dataOnly 0x10000000 4 = .error (.memoryFault .unmapped 0x10000000) := by rfl

theorem test_SE2 : hostWrite dataOnly 0x10000000 [0x01, 0x02] = .error (.memoryFault .unmapped 0x10000000) := by rfl

theorem test_SE3 : hostWrite dataOnly 0x402FFE [0x11, 0x22, 0x33, 0x44] = .error (.memoryFault .unmapped 0x403000) := by rfl

theorem test_SE4 : hostRead dataOnly 0x402FFE 2 = .ok [0x00, 0x00] := by rfl

/-- The last page of the address space may be mapped; one page more is past 2^32. -/
theorem test_mmap_top :
    mmap Config.std dataOnly 0xFFFFF000 0x1000 ⟨true, true, true⟩ =
        .ok { dataOnly with maps := dataOnly.maps ++ [⟨0xFFFFF000, 0x1000, ⟨true, true, true⟩⟩] } ∧
      mmap Config.std dataOnly 0xFFFFF000 0x2000 ⟨true, true, true⟩ = .error .mapError := ⟨rfl, rfl⟩

/-! ## Placing a table word -/

/-- From reset, the word of `sub ecx, edi` is the next instruction the step runs. -/
theorem test_withFetchWord :
    decodeTableWord 16 0xF929 = some (.subRmR [] (.reg .ecx) .edi) ∧
      runsTo (step (State.reset.withFetchWord 16 0xF929)) (fun t => t.eip == 2 && t.flags.ZF) = true := by decide

/-! ## Witnesses: states and operands that meet the hypotheses of each statement -/

/-- Registers, a stack, and data at EBX, ESI and EDI. -/
def w0 : State :=
  box stk 0x401000 []
    { eax := 0x105, ecx := 0x21, edx := 0, ebx := 0x402000, esp := 0x12FF00, ebp := 0, esi := 0x402000, edi := 0x402010 } f0
    [(0x402000, 0x7F), (0x402001, 0x80), (0x402010, 0x06)]

/-- `w0` with another EAX. -/
def wa (v : Word) : State := { w0 with regs := { w0.regs with eax := v } }

/-- `w0` with another EBX, so another address of the operand `[ebx]`. -/
def wb (v : Word) : State := { w0 with regs := { w0.regs with ebx := v } }

/-- `w0` with a given CF. -/
def wc (b : Bool) : State := { w0 with flags := { f0 with CF := b } }

/-- The operand `[ebx]`. -/
abbrev atEbx : EaExpr := eaOf (.ind .ebx)

/-- The hypotheses of the statements on two operands. -/
def Two (w : Width) (m : Mnemonic) (i : Instr) (s : State) (dst : Place w) (src : Operand w) (a b : BitVec w.bits) : Prop :=
  i.mnemonic = m ∧ operandsOf i = .two dst src ∧ readPlace s dst = .ok a ∧ readOperand s src = .ok b ∧ canWrite s dst = true

/-- The hypotheses of the statements on one operand. -/
def One (w : Width) (m : Mnemonic) (i : Instr) (s : State) (dst : Place w) (a : BitVec w.bits) : Prop :=
  i.mnemonic = m ∧ operandsOf i = .one dst ∧ readPlace s dst = .ok a ∧ canWrite s dst = true

/-- The hypotheses of the statements on shifts, rotates and bit tests. -/
def Shift (w : Width) (m : Mnemonic) (i : Instr) (s : State) (dst : Place w) (cnt : Operand .w8) (d : BitVec w.bits) (n : Byte) : Prop :=
  i.mnemonic = m ∧ operandsOf i = .byteSrc dst cnt ∧ readPlace s dst = .ok d ∧ readOperand s cnt = .ok n ∧ canWrite s dst = true

theorem witness_AddAndAdcWriteSumAndFlags :
    Two .w8 .ADD (.addRm8Imm8 [.lock] (.mem (.ind .ebx)) 0xFF#8) w0 (.mem atEbx) (.imm 0xFF#8) 0x7F#8 0xFF#8 ∧
      Two .w16 .ADC (.adcRmR [.opsize] (.reg .eax) .ecx) (wc true) (.reg (.w .eax)) (.place (.reg (.w .ecx))) 0x105#16 0x21#16 :=
  ⟨⟨rfl, rfl, rfl, rfl, by decide⟩, rfl, rfl, rfl, rfl, by decide⟩

theorem witness_SubAndSbbWriteDifferenceAndFlags :
    Two .w32 .SUB (.subEaxImm [] (.i32 0xFFFFFFFF#32)) w0 (.reg (.d .eax)) (.imm 0xFFFFFFFF#32) 0x105#32 0xFFFFFFFF#32 ∧
      Two .w8 .SBB (.sbbR8Rm8 [] .ah (.mem (.ind .ebx))) (wc true) (.reg (.b .ah)) (.place (.mem atEbx)) 0x01#8 0x7F#8 :=
  ⟨⟨rfl, rfl, rfl, rfl, by decide⟩, rfl, rfl, rfl, rfl, by decide⟩

theorem witness_CmpWritesFlagsOnly :
    Two .w32 .CMP (.cmpRmImm8 [] (.mem (.ind .ebx)) 0xFF#8) w0 (.mem atEbx) (.imm 0xFFFFFFFF#32) 0x807F#32 0xFFFFFFFF#32 :=
  ⟨rfl, rfl, rfl, rfl, by decide⟩

theorem witness_IncAndDecKeepCarry :
    One .w8 .INC (.incRm8 [.lock] (.mem (.ind .ebx))) w0 (.mem atEbx) 0x7F#8 ∧
      One .w16 .DEC (.decR [.opsize] .edx) w0 (.reg (.w .edx)) 0#16 :=
  ⟨⟨rfl, rfl, rfl, by decide⟩, rfl, rfl, rfl, by decide⟩

theorem witness_NegWritesNegationAndFlags : One .w32 .NEG (.negRm [] (.mem (.ind .ebx))) w0 (.mem atEbx) 0x807F#32 := ⟨rfl, rfl, rfl, by decide⟩

theorem witness_AndOrXorWriteResultAndFlags :
    Two .w32 .AND (.andRmR [.lock] (.mem (.ind .ebx)) .ecx) w0 (.mem atEbx) (.place (.reg (.d .ecx))) 0x807F#32 0x21#32 ∧
      Two .w8 .OR (.orAlImm8 [] 0x80#8) w0 (.reg (.b .al)) (.imm 0x80#8) 0x05#8 0x80#8 ∧
        Two .w32 .XOR (.xorRmR [] (.reg .eax) .eax) w0 (.reg (.d .eax)) (.place (.reg (.d .eax))) 0x105#32 0x105#32 :=
  ⟨⟨rfl, rfl, rfl, rfl, by decide⟩, ⟨rfl, rfl, rfl, rfl, by decide⟩, rfl, rfl, rfl, rfl, by decide⟩

theorem witness_TestWritesFlagsOnly :
    Two .w8 .TEST (.testRm8Imm8 [] (.mem (.ind .ebx)) 0x80#8) w0 (.mem atEbx) (.imm 0x80#8) 0x7F#8 0x80#8 :=
  ⟨rfl, rfl, rfl, rfl, by decide⟩

theorem witness_NotComplementsAndKeepsFlags : One .w16 .NOT (.notRm [.opsize] (.mem (.ind .ebx))) w0 (.mem atEbx) 0x807F#16 := ⟨rfl, rfl, rfl, by decide⟩

theorem witness_MulWritesFullProduct :
    One .w8 .MUL (.mulRm8 [] (.mem (.ind .ebx))) w0 (.mem atEbx) 0x7F#8 ∧ One .w32 .MUL (.mulRm [] (.reg .ecx)) w0 (.reg (.d .ecx)) 0x21#32 :=
  ⟨⟨rfl, rfl, rfl, by decide⟩, rfl, rfl, rfl, by decide⟩

theorem witness_ImulOneWritesFullSignedProduct : One .w16 .IMUL (.imulRm [.opsize] (.mem (.ind .ebx))) w0 (.mem atEbx) 0x807F#16 := ⟨rfl, rfl, rfl, by decide⟩

theorem witness_ImulTwoAndThreeTruncateProduct :
    Two .w32 .IMUL (.imulRRm [] .eax (.mem (.ind .ebx))) w0 (.reg (.d .eax)) (.place (.mem atEbx)) 0x105#32 0x807F#32 ∧
      (Instr.imulRRmImm8 [] .eax (.reg .ecx) 0x80#8).mnemonic = .IMUL ∧
      operandsOf (.imulRRmImm8 [] .eax (.reg .ecx) 0x80#8) =
        .three (w := .w32) (.reg (.d .eax)) (.reg (.d .ecx)) (.imm 0xFFFFFF80#32) ∧
      readPlace (w := .w32) w0 (.reg (.d .ecx)) = .ok 0x21#32 ∧ readOperand (w := .w32) w0 (.imm 0xFFFFFF80#32) = .ok 0xFFFFFF80#32 :=
  ⟨⟨rfl, rfl, rfl, rfl, by decide⟩, rfl, rfl, rfl, rfl⟩

/-- The largest quotient that fits, 255. -/
theorem witness_DivWritesQuotientAndRemainder :
    One .w8 .DIV (.divRm8 [] (.mem (.ind .ebx))) (wa 0x7EFF) (.mem atEbx) 0x7F#8 ∧ (0x7F#8).toNat ≠ 0 ∧
      dividend .w8 (wa 0x7EFF).regs / (0x7F#8).toNat < 2 ^ Width.w8.bits :=
  ⟨⟨rfl, rfl, rfl, by decide⟩, by decide, by decide⟩

/-- The least quotient that fits, -128. -/
theorem witness_IdivWritesSignedQuotientAndRemainder :
    One .w8 .IDIV (.idivRm8 [] (.mem (.ind .ebx))) (wa 0xC080) (.mem atEbx) 0x7F#8 ∧
      let n := (BitVec.ofNat (2 * Width.w8.bits) (dividend .w8 (wa 0xC080).regs)).toInt
      (0x7F#8).toInt ≠ 0 ∧ -2 ^ (Width.w8.bits - 1) ≤ n.tdiv (0x7F#8).toInt ∧ n.tdiv (0x7F#8).toInt < 2 ^ (Width.w8.bits - 1) :=
  ⟨⟨rfl, rfl, rfl, by decide⟩, by decide, by decide, by decide⟩

/-- The least quotient that does not fit DIV, 256; those next to the range of IDIV, 128 and -129; a divisor and a base of 0. -/
theorem witness_DivideErrorRaisedExactlyWhen :
    (One .w8 .DIV (.divRm8 [] (.mem (.ind .ebx))) (wa 0x7F00) (.mem atEbx) 0x7F#8 ∧
      2 ^ Width.w8.bits ≤ dividend .w8 (wa 0x7F00).regs / (0x7F#8).toNat) ∧
    (One .w8 .IDIV (.idivRm8 [] (.mem (.ind .ebx))) (wa 0x3F80) (.mem atEbx) 0x7F#8 ∧
      (2 : Int) ^ (Width.w8.bits - 1) ≤ (BitVec.ofNat 16 (dividend .w8 (wa 0x3F80).regs)).toInt.tdiv (0x7F#8).toInt) ∧
    (One .w8 .IDIV (.idivRm8 [] (.mem (.ind .ebx))) (wa 0xC001) (.mem atEbx) 0x7F#8 ∧
      (BitVec.ofNat 16 (dividend .w8 (wa 0xC001).regs)).toInt.tdiv (0x7F#8).toInt < -(2 : Int) ^ (Width.w8.bits - 1)) ∧
    One .w32 .DIV (.divRm [] (.reg .edx)) w0 (.reg (.d .edx)) 0#32 ∧
    ((Instr.divRm [] (.mem (.ind .ebx))).mnemonic = .DIV ∧
      operandsOf (.divRm [] (.mem (.ind .ebx))) = .one (w := .w32) (.mem atEbx) ∧
      readPlace (w := .w32) (wb 0x402FFD) (.mem atEbx) = .error (.memoryFault .unmapped 0x403000)) ∧
    ((Instr.aamImm8 [] 0#8).mnemonic = .AAM ∧ operandsOf (.aamImm8 [] 0#8) = .imm (w := .w8) 0#8) ∧
    exec (.aamImm8 [] 0#8) w0 = .fault (.divideError 0x401000) :=
  ⟨⟨⟨rfl, rfl, rfl, by decide⟩, by decide⟩, ⟨⟨rfl, rfl, rfl, by decide⟩, by decide⟩, ⟨⟨rfl, rfl, rfl, by decide⟩, by decide⟩,
    ⟨rfl, rfl, rfl, by decide⟩, ⟨rfl, rfl, rfl⟩, ⟨rfl, rfl⟩, rfl⟩

/-- A count of 32, masked to 0, of each mnemonic. -/
theorem witness_ShiftByZeroChangesNothing :
    Shift .w32 .SHL (.shlRmImm8 [] (.mem (.ind .ebx)) 0x20#8) w0 (.mem atEbx) (.imm 0x20#8) 0x807F#32 0x20#8 ∧
      Shift .w32 .SHR (.shrRmImm8 [] (.mem (.ind .ebx)) 0x20#8) w0 (.mem atEbx) (.imm 0x20#8) 0x807F#32 0x20#8 ∧
      Shift .w32 .SAR (.sarRmImm8 [] (.mem (.ind .ebx)) 0x20#8) w0 (.mem atEbx) (.imm 0x20#8) 0x807F#32 0x20#8 ∧
      Shift .w32 .ROL (.rolRmImm8 [] (.mem (.ind .ebx)) 0x20#8) w0 (.mem atEbx) (.imm 0x20#8) 0x807F#32 0x20#8 ∧
      Shift .w32 .ROR (.rorRmImm8 [] (.mem (.ind .ebx)) 0x20#8) w0 (.mem atEbx) (.imm 0x20#8) 0x807F#32 0x20#8 ∧
      Shift .w32 .RCL (.rclRmImm8 [] (.mem (.ind .ebx)) 0x20#8) w0 (.mem atEbx) (.imm 0x20#8) 0x807F#32 0x20#8 ∧
      Shift .w32 .RCR (.rcrRmImm8 [] (.mem (.ind .ebx)) 0x20#8) w0 (.mem atEbx) (.imm 0x20#8) 0x807F#32 0x20#8 :=
  ⟨⟨rfl, rfl, rfl, rfl, by decide⟩, ⟨rfl, rfl, rfl, rfl, by decide⟩, ⟨rfl, rfl, rfl, rfl, by decide⟩, ⟨rfl, rfl, rfl, rfl, by decide⟩,
    ⟨rfl, rfl, rfl, rfl, by decide⟩, ⟨rfl, rfl, rfl, rfl, by decide⟩, rfl, rfl, rfl, rfl, by decide⟩

/-- CL is 33, masked to 1; an immediate of 31. -/
theorem witness_ShlWritesShiftedAndFlags :
    Shift .w32 .SHL (.shlRmCl [] (.mem (.ind .ebx))) w0 (.mem atEbx) (.place (.reg (.b .cl))) 0x807F#32 0x21#8 ∧
      Shift .w8 .SHL (.shlRm8Imm8 [] (.reg .ah) 0x1F#8) w0 (.reg (.b .ah)) (.imm 0x1F#8) 0x01#8 0x1F#8 :=
  ⟨⟨rfl, rfl, rfl, rfl, by decide⟩, rfl, rfl, rfl, rfl, by decide⟩

theorem witness_ShrWritesShiftedAndFlags :
    Shift .w32 .SHR (.shrRmCl [] (.mem (.ind .ebx))) w0 (.mem atEbx) (.place (.reg (.b .cl))) 0x807F#32 0x21#8 ∧
      Shift .w8 .SHR (.shrRm8Imm8 [] (.reg .ah) 0x1F#8) w0 (.reg (.b .ah)) (.imm 0x1F#8) 0x01#8 0x1F#8 :=
  ⟨⟨rfl, rfl, rfl, rfl, by decide⟩, rfl, rfl, rfl, rfl, by decide⟩

theorem witness_SarWritesShiftedAndFlags :
    Shift .w8 .SAR (.sarRm8Cl [] (.mem (.ind .ebx))) w0 (.mem atEbx) (.place (.reg (.b .cl))) 0x7F#8 0x21#8 ∧
      Shift .w32 .SAR (.sarRmOne [] (.reg .eax)) w0 (.reg (.d .eax)) (.imm 1#8) 0x105#32 1#8 :=
  ⟨⟨rfl, rfl, rfl, rfl, by decide⟩, rfl, rfl, rfl, rfl, by decide⟩

theorem witness_RolAndRorRotateAndSetCarry :
    Shift .w32 .ROL (.rolRmOne [] (.mem (.ind .ebx))) w0 (.mem atEbx) (.imm 1#8) 0x807F#32 1#8 ∧
      Shift .w8 .ROR (.rorRm8Imm8 [] (.reg .ah) 0x1F#8) w0 (.reg (.b .ah)) (.imm 0x1F#8) 0x01#8 0x1F#8 :=
  ⟨⟨rfl, rfl, rfl, rfl, by decide⟩, rfl, rfl, rfl, rfl, by decide⟩

theorem witness_RclAndRcrRotateThroughCarry :
    Shift .w8 .RCL (.rclRm8Imm8 [] (.reg .ah) 0x09#8) (wc true) (.reg (.b .ah)) (.imm 0x09#8) 0x01#8 0x09#8 ∧
      Shift .w16 .RCR (.rcrRmCl [.opsize] (.mem (.ind .ebx))) (wc true) (.mem atEbx) (.place (.reg (.b .cl))) 0x807F#16 0x21#8 :=
  ⟨⟨rfl, rfl, rfl, rfl, by decide⟩, rfl, rfl, rfl, rfl, by decide⟩

/-- A source of 0, and one whose highest bit is set. -/
theorem witness_BitScanFindsLowestOrHighestBit :
    Two .w32 .BSF (.bsfRRm [] .eax (.reg .edx)) w0 (.reg (.d .eax)) (.place (.reg (.d .edx))) 0x105#32 0#32 ∧
      Two .w32 .BSF (.bsfRRm [] .eax (.mem (.ind .ebx))) w0 (.reg (.d .eax)) (.place (.mem atEbx)) 0x105#32 0x807F#32 ∧
      Two .w16 .BSR (.bsrRRm [.opsize] .eax (.mem (.ind .ebx))) w0 (.reg (.w .eax)) (.place (.mem atEbx)) 0x105#16 0x807F#16 ∧
      Two .w32 .BSR (.bsrRRm [] .eax (.reg .edx)) w0 (.reg (.d .eax)) (.place (.reg (.d .edx))) 0x105#32 0#32 :=
  ⟨⟨rfl, rfl, rfl, rfl, by decide⟩, ⟨rfl, rfl, rfl, rfl, by decide⟩, ⟨rfl, rfl, rfl, rfl, by decide⟩, rfl, rfl, rfl, rfl, by decide⟩

theorem witness_BswapReversesBytes :
    (Instr.bswapR32 [] .ebx).mnemonic = .BSWAP ∧ operandsOf (.bswapR32 [] .ebx) = .one (w := .w32) (.reg (.d .ebx)) := ⟨rfl, rfl⟩

/-- An index of 0x21, taken modulo 32, and byte indices 31 and 255. -/
theorem witness_BitTestUsesIndexModuloWidth :
    Two .w32 .BT (.btRmR [] (.mem (.ind .ebx)) .ecx) w0 (.mem atEbx) (.place (.reg (.d .ecx))) 0x807F#32 0x21#32 ∧
      Two .w32 .BTS (.btsRmR [.lock] (.mem (.ind .ebx)) .ecx) w0 (.mem atEbx) (.place (.reg (.d .ecx))) 0x807F#32 0x21#32 ∧
      Shift .w32 .BTR (.btrRmImm8 [] (.reg .eax) 0x1F#8) w0 (.reg (.d .eax)) (.imm 0x1F#8) 0x105#32 0x1F#8 ∧
      Shift .w16 .BTC (.btcRmImm8 [.opsize] (.mem (.ind .ebx)) 0xFF#8) w0 (.mem atEbx) (.imm 0xFF#8) 0x807F#16 0xFF#8 :=
  ⟨⟨rfl, rfl, rfl, rfl, by decide⟩, ⟨rfl, rfl, rfl, rfl, by decide⟩, ⟨rfl, rfl, rfl, rfl, by decide⟩, rfl, rfl, rfl, rfl, by decide⟩

/-- Both values of the predicate. -/
theorem witness_CmovWritesOnlyWhenPredicateHolds :
    Two .w32 .CMOVAE (.cmovaeRRm [] .eax (.mem (.ind .ebx))) w0 (.reg (.d .eax)) (.place (.mem atEbx)) 0x105#32 0x807F#32 ∧
      cmovCond .CMOVAE = some .AE ∧ pred w0.flags .AE = true ∧ pred (wc true).flags .AE = false :=
  ⟨⟨rfl, rfl, rfl, rfl, by decide⟩, rfl, rfl, rfl⟩

/-- A slot at the bottom of the stack page. -/
theorem witness_CallRelativePushesAndJumps :
    let s : State := { w0 with regs := { w0.regs with esp := 0x12F004 } }
    (Instr.callRel32 [] 0x10#32).mnemonic = .CALL ∧ operandsOf (.callRel32 [] 0x10#32) = .target 0x10#32 ∧
      s.mem.Admitted .write (s.regs.esp - 4#32).toNat 4 := ⟨rfl, rfl, by decide⟩

/-- The target is read from the slot the push then overwrites. -/
theorem witness_CallIndirectReadsTargetThenPushes :
    One .w32 .CALL (.callRm32 [] (.mem (.disp8 .ecx 0xFC#8)))
        { w0 with regs := { w0.regs with ecx := 0x12FF00 } } (.mem (eaOf (.disp8 .ecx 0xFC#8))) 0#32 ∧
      w0.mem.Admitted .write (w0.regs.esp - 4#32).toNat 4 := ⟨⟨rfl, rfl, rfl, by decide⟩, by decide⟩

theorem witness_RetPopsAndReleases :
    (Instr.ret []).mnemonic = .RET ∧ operandsOf (.ret []) = .none ∧ (Instr.retImm16 [] 0xFFFF#16).mnemonic = .RET ∧
      operandsOf (.retImm16 [] 0xFFFF#16) = .imm (w := .w16) 0xFFFF#16 ∧ memRead w0.mem .w32 w0.regs.esp = .ok 0#32 := ⟨rfl, rfl, rfl, rfl, rfl⟩

theorem witness_JmpChangesOnlyEip :
    (Instr.jmpRel8 [] 0x80#8).mnemonic = .JMP ∧ operandsOf (.jmpRel8 [] 0x80#8) = .target 0xFFFFFF80#32 ∧
      One .w32 .JMP (.jmpRm32 [] (.mem (.ind .ebx))) w0 (.mem atEbx) 0x807F#32 := ⟨rfl, rfl, rfl, rfl, rfl, by decide⟩

theorem witness_JccJumpsExactlyWhenPredicateHolds :
    jccCond (Instr.jbRel32 [] 0xFFFFFFFA#32).mnemonic = some .B ∧ operandsOf (.jbRel32 [] 0xFFFFFFFA#32) = .target 0xFFFFFFFA#32 ∧
      pred (wc true).flags .B = true ∧ pred w0.flags .B = false := ⟨rfl, rfl, rfl, rfl⟩

theorem witness_RetUndoesCall :
    ∃ (c r : Instr) (s t u : State), c.mnemonic = .CALL ∧ r.mnemonic = .RET ∧ operandsOf r = .none ∧ exec c s = .next t ∧
      u.regs.esp = t.regs.esp ∧ u.mem.Admitted .read t.regs.esp.toNat 4 ∧
      ∀ k, k < 4 → Memory.read u.mem.bytes (t.regs.esp.toNat + k) = Memory.read t.mem.bytes (t.regs.esp.toNat + k) := by
  obtain ⟨t, ht, hp⟩ := next_of_runsTo
    (r := exec (.callRel32 [] 0x10#32) w0) (p := fun t => decide (t.mem.Admitted .read t.regs.esp.toNat 4)) (by decide)
  exact ⟨_, .ret [], _, t, t, rfl, rfl, rfl, ht, rfl, of_decide_eq_true hp, fun _ _ => rfl⟩

theorem witness_CmpsComparesAndMovesPointers :
    cmpsWidth (Instr.cmpsb []).mnemonic = some .w8 ∧ memRead w0.mem .w8 w0.regs.esi = .ok 0x7F#8 ∧
      memRead w0.mem .w8 w0.regs.edi = .ok 0x06#8 ∧
      cmpsWidth (Instr.cmpsw [.opsize]).mnemonic = some .w16 ∧ memRead w0.mem .w16 w0.regs.esi = .ok 0x807F#16 ∧
      memRead w0.mem .w16 w0.regs.edi = .ok 0x06#16 ∧
      cmpsWidth (Instr.cmpsd []).mnemonic = some .w32 ∧ memRead w0.mem .w32 w0.regs.esi = .ok 0x807F#32 ∧
      memRead w0.mem .w32 w0.regs.edi = .ok 0x06#32 := ⟨rfl, rfl, rfl, rfl, rfl, rfl, rfl, rfl, rfl⟩

theorem witness_FlagControlChangesOneFlag :
    (Instr.clc []).mnemonic = .CLC ∧ (Instr.stc []).mnemonic = .STC ∧ (Instr.cmc []).mnemonic = .CMC ∧
      (Instr.cld []).mnemonic = .CLD ∧ (Instr.std []).mnemonic = .STD := ⟨rfl, rfl, rfl, rfl, rfl⟩

theorem witness_AadComputesAxAndFlags : (Instr.aadImm8 [] 0xFF#8).mnemonic = .AAD ∧ operandsOf (.aadImm8 [] 0xFF#8) = .imm (w := .w8) 0xFF#8 := ⟨rfl, rfl⟩

theorem witness_AamComputesAxAndFlags :
    (Instr.aamImm8 [] 0x01#8).mnemonic = .AAM ∧ operandsOf (.aamImm8 [] 0x01#8) = .imm (w := .w8) 0x01#8 ∧ 0x01#8 ≠ 0#8 := ⟨rfl, rfl, by decide⟩

theorem witness_SignExtensionFillsWiderPlace :
    (Instr.cbw [.opsize]).mnemonic = .CBW ∧ (Instr.cwde []).mnemonic = .CWDE ∧ (Instr.cwd [.opsize]).mnemonic = .CWD ∧
      (Instr.cdq []).mnemonic = .CDQ := ⟨rfl, rfl, rfl, rfl⟩

theorem witness_MovWritesSourceAndKeepsFlags :
    Two .w32 .MOV (.movMoffsEax [] 0x402FFC#32) w0 (.mem (eaAbs 0x402FFC#32)) (.place (.reg (.d .eax))) 0#32 0x105#32 ∧
      Two .w8 .MOV (.movR8Imm8 [] .bh 0xFF#8) w0 (.reg (.b .bh)) (.imm 0xFF#8) 0x20#8 0xFF#8 :=
  ⟨⟨rfl, rfl, rfl, rfl, by decide⟩, rfl, rfl, rfl, rfl, by decide⟩

theorem witness_MovzxAndMovsxKeepValue :
    ((Instr.movzxRRm16 [] .eax (.mem (.ind .ebx))).mnemonic = .MOVZX ∧
      operandsOf (.movzxRRm16 [] .eax (.mem (.ind .ebx))) = .widen (w := .w32) (v := .w16) (.reg (.d .eax)) (.mem atEbx) ∧
      readPlace (w := .w16) w0 (.mem atEbx) = .ok 0x807F#16 ∧ (0x807F#32).toNat = (0x807F#16).toNat) ∧
    (Instr.movsxRRm16 [] .eax (.mem (.ind .ebx))).mnemonic = .MOVSX ∧
      operandsOf (.movsxRRm16 [] .eax (.mem (.ind .ebx))) = .widen (w := .w32) (v := .w16) (.reg (.d .eax)) (.mem atEbx) ∧
      (0xFFFF807F#32).toInt = (0x807F#16).toInt := ⟨⟨rfl, rfl, rfl, by decide⟩, rfl, rfl, by decide⟩

/-- An address that no mapping holds. -/
theorem witness_LeaWritesEffectiveAddress :
    (Instr.leaRM [.opsize] .eax (.abs 0xFFFFFFFF#32)).mnemonic = .LEA ∧
      operandsOf (.leaRM [.opsize] .eax (.abs 0xFFFFFFFF#32)) =
        .two (w := .w16) (.reg (.w .eax)) (.place (.mem (eaOf (.abs 0xFFFFFFFF#32)))) := ⟨rfl, rfl⟩

/-- One mnemonic of each clause of the statement. -/
theorem witness_OperandShapesOfEveryMnemonic :
    (Instr.movEaxMoffs [] 0#32).mnemonic = .MOV ∧ (Instr.divRm8 [] (.reg .ch)).mnemonic = .DIV ∧
      (Instr.imulRRmImm [] .eax (.reg .ecx) (.i32 1#32)).mnemonic = .IMUL ∧ (Instr.rcrRm8One [] (.reg .al)).mnemonic = .RCR ∧
      (Instr.btcRmR [] (.reg .eax) .ecx).mnemonic = .BTC ∧ (Instr.bsrRRm [] .eax (.reg .ecx)).mnemonic = .BSR ∧
      (cmovCond (Instr.cmovgRRm [] .eax (.reg .ecx)).mnemonic).isSome ∧ (Instr.bswapR32 [] .edi).mnemonic = .BSWAP ∧
      (Instr.movsxRRm8 [] .eax (.reg .ah)).mnemonic = .MOVSX ∧ (Instr.leaRM [] .eax (.ind .eax)).mnemonic = .LEA ∧
      (Instr.callRm32 [] (.reg .eax)).mnemonic = .CALL ∧ (Instr.jmpRel32 [] 0#32).mnemonic = .JMP ∧ (Instr.ret []).mnemonic = .RET ∧
      (jccCond (Instr.joRel8 [] 0#8).mnemonic).isSome ∧ (Instr.aadImm8 [] 10#8).mnemonic = .AAD ∧ (Instr.cmpsw [.opsize]).mnemonic = .CMPSW := by decide

/-- The last bytes of a page; a read that leaves the page; one that leaves the address space; a page that may not be read. -/
theorem witness_CheckedReadGivesValueOrFirstFault :
    w0.mem.Admitted .read (0x402FFC#32).toNat Width.w32.bytes ∧
    (w0.mem.Admitted .read (0x402FFF#32).toNat 1 ∧ w0.mem.admits .read ((0x402FFF#32).toNat + 1) = false ∧
      w0.mem.mapped ((0x402FFF#32).toNat + 1) = false) ∧
    (let x : AddressSpace := { maps := [⟨0xFFFFF000, 0x1000, ⟨true, false, false⟩⟩], bytes := [] }
     x.Admitted .read (0xFFFFFFFE#32).toNat 2 ∧ x.admits .read ((0xFFFFFFFE#32).toNat + 2) = false) ∧
    let x : AddressSpace := { maps := [⟨0x5000, 0x1000, ⟨false, true, false⟩⟩], bytes := [] }
    x.Admitted .read (0x5000#32).toNat 0 ∧ x.admits .read ((0x5000#32).toNat + 0) = false ∧ x.mapped ((0x5000#32).toNat + 0) = true := by
  decide

/-- The last two bytes of a page, one byte more, and a page that may not be written. -/
theorem witness_HostAccessIsAllOrNothing :
    dataOnly.Admitted .write 0x402FFE [0x11#8, 0x22#8].length ∧
    (1 < [0x11#8, 0x22#8].length ∧ dataOnly.Admitted .write 0x402FFF 1 ∧ dataOnly.admits .write (0x402FFF + 1) = false) ∧
    (w0.mem.Admitted .write 0x401000 0 ∧ w0.mem.admits .write (0x401000 + 0) = false ∧ w0.mem.mapped (0x401000 + 0) = true) ∧
    dataOnly.Admitted .read 0x402FFE 2 ∧ dataOnly.Admitted .read 0x402FFE 2 ∧ dataOnly.admits .read (0x402FFE + 2) = false := by decide

theorem witness_MmapAddsRegionOrIsRefused :
    w0.mem.wf Config.std.pageSize = true ∧
      mmap Config.std dataOnly 0x403000 0x1000 ⟨true, false, false⟩ =
        .ok { dataOnly with maps := dataOnly.maps ++ [⟨0x403000, 0x1000, ⟨true, false, false⟩⟩] } ∧
      mmap Config.std w0.mem 0x402000 0x1000 ⟨true, false, false⟩ = .error .mapError := ⟨by decide, rfl, rfl⟩

/-- The longest instruction: 13 bytes. -/
theorem witness_DecodeOfEncodeIsIdentity :
    let i := Instr.addRmImm [.seg .cs, .lock] (.mem (.sibDisp32 ⟨.x8, some .ecx⟩ .eax 0x402000#32)) (.i32 0x12345678#32)
    i.wf = true ∧ (encode i).length = 13 := by decide

theorem witness_DecodedIsWellFormedAndEncoded :
    let i := Instr.btsRmR [.lock, .opsize] (.mem (.ind .ebx)) .ecx
    decode [0xF0, 0x66, 0x0F, 0xAB, 0x0B, 0x90] = .got i [0x90] ∧ Prefix.lock ∈ i.prefixes ∧ Prefix.opsize ∈ i.prefixes := by decide

/-- Prefixes, bytes and ModR/M bytes of each clause. -/
theorem witness_RefusedEncodingsGiveTheirVerdict :
    Prefixes.wf [.lock, .seg .ds, .opsize] = true ∧ Prefix.lock ∈ [Prefix.lock, .seg .ds, .opsize] ∧
      (prefixOf 0xCC#8 = none ∧ refusedPrefix 0xCC#8 = false ∧ 0xCC#8 ≠ 0x0F#8) ∧ (regOf 0xF0#8 = 6#3 ∧ regOf 0xC8#8 = 1#3) ∧
      (regOf 0xD8#8 = 3#3 ∧ regOf 0xE8#8 = 5#3) ∧ modOf 0xC0#8 = 3#2 ∧ (regOf 0xD0#8).toNat = 2 ∧ regOf 0xF8#8 = 7#3 ∧
      regOf 0xC8#8 ≠ 0#3 ∧ (regOf 0xD8#8).toNat = 3 := by decide

/-- INT3 and CPUID have no row. -/
theorem witness_RefusedEncodings_noRow :
    (∀ f : Form, f.row.hasOpcode false 0xCC#8 = false) ∧ ∀ f : Form, f.row.hasOpcode true 0xA2#8 = false := by
  constructor <;> intro f <;> cases f <;> rfl

/-- LOCK on a register and on a MOV to memory, next to one that is allowed; `66` on a byte row, also with an allowed LOCK. -/
theorem witness_RefusedEncodings_lockAndOpsize :
    ¬ Lockable (.addRmR [.lock] (.reg .eax) .ecx) ∧ ¬ Lockable (.movRmR [.opsize, .lock] (.mem (.ind .ebx)) .ecx) ∧
      (Instr.movRmR [.opsize, .lock] (.mem (.ind .ebx)) .ecx).width = some .w16 ∧
      Lockable (.addRm8R8 [.opsize, .lock] (.mem (.ind .ebx)) .cl) ∧
      (Instr.addRm8R8 [.opsize, .lock] (.mem (.ind .ebx)) .cl).width ≠ some .w16 ∧
      (Instr.addRm8R8 [.opsize, .lock] (.mem (.ind .ebx)) .cl).prefixes.wf = true :=
  ⟨fun h => absurd (h.2 w0) (by decide), fun h => absurd h.1 (by decide), rfl, ⟨by decide, fun _ => rfl⟩, by decide, by decide⟩

theorem witness_TierGRefusedWhenNotAdmitted :
    (decodeWith true [0xC3] = .got (.ret []) [] ∧ (Instr.ret []).form.row.tier = .G) ∧
      decodeWith false [0xC2, 0x08, 0x00] = .refuse .unsupportedInstruction [0x08, 0x00] ∧
      decodeWith false [0x01, 0xF9] = .got (.addRmR [] (.reg .ecx) .edi) [] ∧
      (Instr.addRmR [] (.reg .ecx) .edi).form.row.tier = .S := by decide

theorem witness_IgnoredPrefixesHaveNoEffect :
    let i := Instr.addRmR [.opsize] (.mem (.ind .ebx)) .ecx
    let j := Instr.addRmR [.seg .cs, .opsize, .lock] (.mem (.ind .ebx)) .ecx
    i.form = j.form ∧ i.raw = j.raw ∧ (Prefix.opsize ∈ i.prefixes ↔ Prefix.opsize ∈ j.prefixes) ∧ ∃ t, exec i w0 = .next t := by
  refine ⟨rfl, rfl, by decide, ?_⟩
  obtain ⟨t, ht, -⟩ := next_of_runsTo (r := exec (.addRmR [.opsize] (.mem (.ind .ebx)) .ecx) w0) (p := fun _ => true) (by decide)
  exact ⟨t, ht⟩

/-- Two bytes at the end of the code page. -/
theorem witness_StepRunsDecodedInstruction :
    let s := box std 0x401FFE [0x29, 0xF9] r0 f0 []
    s.mem.Admitted .execute s.eip.toNat 2 ∧ decode (bytesAt s.mem.bytes s.eip.toNat 2) = .got (.subRmR [] (.reg .ecx) .edi) [] := by
  decide

/-- A verdict that ends at the last byte of the page, and one byte more that is needed: mapped, then not mapped. -/
theorem witness_FetchAndDecodeFaultsInOrder :
    (let s := box std 0x401FFE [0x0F, 0x0B] r0 f0 []
     s.mem.Admitted .execute s.eip.toNat 2 ∧ decode (bytesAt s.mem.bytes s.eip.toNat 2) = .refuse .invalidOpcode []) ∧
    (let s := box std 0x401FFF [0x50] r0 f0 []
     s.mem.Admitted .execute s.eip.toNat 1 ∧ decode (bytesAt s.mem.bytes s.eip.toNat 1) = .refuse .unsupportedInstruction []) ∧
    (let s := box std 0x401FFF [0x29] r0 f0 []
     s.mem.Admitted .execute s.eip.toNat 1 ∧ decode (bytesAt s.mem.bytes s.eip.toNat 1) = .more ∧
       s.mem.admits .execute (s.eip.toNat + 1) = false ∧ s.mem.mapped (s.eip.toNat + 1) = true) ∧
    let s := box [] 0xFFFFFFFF [] r0 f0 []
    s.mem.Admitted .execute s.eip.toNat 0 ∧ decode (bytesAt s.mem.bytes s.eip.toNat 0) = .more ∧
      s.mem.admits .execute (s.eip.toNat + 0) = false := by decide

theorem witness_StepNeverRefusesAndFaultPayloads :
    step State.reset = .fault (.memoryFault .unmapped 0) ∧
      step (box std 0x401000 [0x8B, 0x05, 0x00, 0x30, 0x40, 0x00] r0 f0 []) = .fault (.memoryFault .unmapped 0x403000) ∧
      step (box std 0x401000 [0x0F, 0x0B] r0 f0 []) = .fault (.invalidOpcode 0x401000 [0x0F, 0x0B]) ∧
      step (box std 0x401000 [0x66, 0x75] r0 f0 []) = .fault (.unsupportedInstruction 0x401000 [0x66, 0x75]) :=
  ⟨fault_of_faultsWith (by decide), fault_of_faultsWith (by decide), fault_of_faultsWith (by decide), fault_of_faultsWith (by decide)⟩

/-- A read that leaves the page; a store to a page that may only be read; a stack slot and string elements that are not mapped. -/
theorem witness_OperandFaultsAtFirstByte :
    (readsFrom (.addRRm [] .eax (.mem (.ind .ebx))) = some (.w32, atEbx) ∧
      memRead (wb 0x402FFD).mem .w32 (atEbx.address (wb 0x402FFD).regs) = .error (.memoryFault .unmapped 0x403000)) ∧
    (storesTo (.addRmR [] (.mem (.ind .ebx)) .eax) (wb 0x401FFE) = some (0x401FFE, 4) ∧
      readsOk (.addRmR [] (.mem (.ind .ebx)) .eax) (wb 0x401FFE) = true ∧ (wb 0x401FFE).mem.Admitted .write 0x401FFE 0 ∧
      (wb 0x401FFE).mem.admits .write (0x401FFE + 0) = false) ∧
    (memRead dataOnly .w32 w0.regs.esp = .error (.memoryFault .unmapped 0x12FF00)) ∧
    memRead dataOnly .w8 (0x403000#32) = .error (.memoryFault .unmapped 0x403000) ∧ memRead dataOnly .w8 (0x402000#32) = .ok 0#8 :=
  ⟨⟨rfl, rfl⟩, ⟨rfl, by decide, by decide, by decide⟩, rfl, rfl, rfl⟩

theorem witness_FootprintOfEveryInstruction : ∃ t, exec (.callRm32 [] (.mem (.ind .ebx))) w0 = .next t := by
  obtain ⟨t, ht, -⟩ := next_of_runsTo (r := exec (.callRm32 [] (.mem (.ind .ebx))) w0) (p := fun _ => true) (by decide)
  exact ⟨t, ht⟩

/-- `add byte ptr [ebx], 1` changes the byte at EBX. -/
theorem witness_OnlyWritableBytesChange :
    ∃ s t : State, step s = .next t ∧ Memory.read t.mem.bytes 0x402000 ≠ Memory.read s.mem.bytes 0x402000 := by
  obtain ⟨t, ht, hp⟩ := next_of_runsTo (r := step (box std 0x401000 [0x80, 0x03, 0x01] { r0 with ebx := 0x402000 } f0 []))
    (p := fun t => Memory.read t.mem.bytes 0x402000 == 1) (by decide)
  refine ⟨_, t, ht, ?_⟩
  rw [eq_of_beq hp]
  decide

/-- Two states that differ, in a byte that no mapping holds. -/
theorem witness_UnmappedBytesDoNotMatter :
    ∃ s t : State, SameArch s t ∧ s ≠ t ∧ runsTo (step s) (fun _ => true) = true := by
  refine ⟨box std 0x401000 [0x40] r0 f0 [], box std 0x401000 [0x40] r0 f0 [(0x500000, 1)], ⟨rfl, rfl, rfl, rfl, ?_⟩, by decide, by decide⟩
  intro a ha
  have h : a ≠ 0x500000 := by
    rintro rfl
    revert ha
    decide
  have e : (box std 0x401000 [0x40] r0 f0 [(0x500000, 1)]).mem.bytes = [(0x401000, 0x40), (0x500000, 1)] := by decide
  have e' : (box std 0x401000 [0x40] r0 f0 []).mem.bytes = [(0x401000, 0x40)] := by decide
  simp only [e, e', Memory.read]
  split
  · rfl
  · rw [if_neg fun h' => h h'.symm]

theorem witness_PredicatesAfterCmpCompare :
    Two .w8 .CMP (.cmpAlImm8 [] 0x80#8) w0 (.reg (.b .al)) (.imm 0x80#8) 0x05#8 0x80#8 ∧ ∃ t, exec (.cmpAlImm8 [] 0x80#8) w0 = .next t := by
  obtain ⟨t, ht, -⟩ := next_of_runsTo (r := exec (.cmpAlImm8 [] 0x80#8) w0) (p := fun _ => true) (by decide)
  exact ⟨⟨rfl, rfl, rfl, rfl, by decide⟩, t, ht⟩

theorem witness_StepKeepsInvariant :
    ∃ s t : State, s.Inv ∧ step s = .next t := by
  obtain ⟨t, ht, -⟩ := next_of_runsTo (r := step (box std 0x401000 [0x80, 0x03, 0x01] { r0 with ebx := 0x402000 } f0 []))
    (p := fun _ => true) (by decide)
  exact ⟨_, t, by unfold State.Inv; decide, ht⟩

/-- Two steps that succeed; a run that ends in a fault. -/
theorem witness_RunsKeepInvariantAndRepeatFault :
    (box std 0x401000 [0x40, 0x40] r0 f0 []).Inv ∧ SafeRun 2 (box std 0x401000 [0x40, 0x40] r0 f0 []) ∧
      (runSteps Config.std 2 (box std 0x401000 [0x40, 0x0F, 0x0B] r0 f0 [])).2 = some (.invalidOpcode 0x401001 [0x0F, 0x0B]) := by
  unfold State.Inv SafeRun
  decide

end Sys2Proof.Machine.Tests
end

section
/-! The parameter ADMIT_TIER_G of the decoder (00_scope.md R12): the two decoders part only at the verdict on the selected row, and an instruction
that is decoded has the row that was selected. -/

namespace Sys2Proof

/-! ## The row of an instruction that is put together from parts -/

/-- Every instruction that `o` gives has the row `f`. -/
def BuildsForm (f : Form) (o : Option Instr) : Prop := ∀ i, o = some i → i.form = f

@[simp] theorem buildsForm_some (f : Form) (i : Instr) : BuildsForm f (some i) ↔ i.form = f := by
  simp [BuildsForm]

@[simp] theorem buildsForm_none (f : Form) : BuildsForm f none := by
  simp [BuildsForm]

section Fields
variable {f : Form} (raw : Raw)

theorem buildsForm_onRm {k : RM (BitVec 3) → Option Instr} (h : ∀ m, BuildsForm f (k m)) : BuildsForm f (raw.onRm k) := by
  unfold Raw.onRm
  split <;> simp [h]

theorem buildsForm_onMem {k : Mem → Option Instr} (h : ∀ m, BuildsForm f (k m)) : BuildsForm f (raw.onMem k) := by
  unfold Raw.onMem
  split <;> simp [h]

theorem buildsForm_onB {k : Byte → Option Instr} (h : ∀ v, BuildsForm f (k v)) : BuildsForm f (raw.onB k) := by
  unfold Raw.onB
  split <;> simp [h]

theorem buildsForm_onW {k : BitVec 16 → Option Instr} (h : ∀ v, BuildsForm f (k v)) : BuildsForm f (raw.onW k) := by
  unfold Raw.onW
  split <;> simp [h]

theorem buildsForm_onD {k : Word → Option Instr} (h : ∀ v, BuildsForm f (k v)) : BuildsForm f (raw.onD k) := by
  unfold Raw.onD
  split <;> simp [h]

theorem buildsForm_onZ {k : ImmZ → Option Instr} (h : ∀ v, BuildsForm f (k v)) : BuildsForm f (raw.onZ k) := by
  unfold Raw.onZ
  split <;> simp [h]

end Fields

/-- Each arm of `Parts.build` reads fields of its row and applies the constructor of its row. -/
theorem buildsForm_build (x : Parts) : BuildsForm x.form x.build := by
  obtain ⟨f, p, raw⟩ := x
  cases f <;>
    simp [Parts.build, Instr.form, Instr.parts, buildsForm_onRm, buildsForm_onMem, buildsForm_onB, buildsForm_onW, buildsForm_onD,
      buildsForm_onZ]

/-! ## The tier of what is decoded -/

/-- Every instruction that `x` gives has a row of tier `t`. -/
def Parsed.AllOfTier (t : Tier) (x : Parsed Instr) : Prop := ∀ i rest, x = .got i rest → i.form.row.tier = t

theorem allOfTier_refuse (t : Tier) (v : Reject) (bs : List Byte) : Parsed.AllOfTier t (.refuse v bs) := by
  simp [Parsed.AllOfTier]

theorem allOfTier_more (t : Tier) : Parsed.AllOfTier t .more := by
  simp [Parsed.AllOfTier]

theorem allOfTier_andThen {α : Type} {t : Tier} (x : Parsed α) {k : α → List Byte → Parsed Instr}
    (hk : ∀ a bs, (k a bs).AllOfTier t) : (x.andThen k).AllOfTier t := by
  cases x with
  | got a bs => exact hk a bs
  | refuse v bs => exact allOfTier_refuse t v bs
  | more => exact allOfTier_more t

theorem allOfTier_finish (x : Parts) (bs : List Byte) : (finish x bs).AllOfTier x.form.row.tier := by
  unfold finish
  cases h : x.build with
  | none => exact allOfTier_refuse _ _ _
  | some i =>
    rintro _ _ ⟨⟩
    rw [buildsForm_build x i h]

/-! ## The gate -/

/-- How decoding with tier G shut out stands to decoding with it admitted: the same outcome, which is of tier S where it is an instruction; or
`UnsupportedInstruction` instead of an outcome which is of tier G where it is an instruction. -/
def Parsed.ShutsOutTierG (shut admitted : Parsed Instr) : Prop :=
  (shut = admitted ∧ admitted.AllOfTier .S) ∨ ((∃ rest, shut = .refuse .unsupportedInstruction rest) ∧ admitted.AllOfTier .G)

theorem shutsOutTierG_refuse (v : Reject) (bs : List Byte) : Parsed.ShutsOutTierG (.refuse v bs) (.refuse v bs) :=
  .inl ⟨rfl, allOfTier_refuse _ v bs⟩

theorem shutsOutTierG_andThen {α : Type} (x : Parsed α) {k k' : α → List Byte → Parsed Instr}
    (hk : ∀ a bs, (k a bs).ShutsOutTierG (k' a bs)) : (x.andThen k).ShutsOutTierG (x.andThen k') := by
  cases x with
  | got a bs => exact hk a bs
  | refuse v bs => exact shutsOutTierG_refuse v bs
  | more => exact .inl ⟨rfl, allOfTier_more _⟩

theorem verdict_false_of_tier_G {r : Row} (h : r.tier = .G) (p : Prefixes) (isReg : Bool) :
    r.verdict false p isReg = some .unsupportedInstruction := by
  simp [Row.verdict, h]

theorem verdict_false_of_tier_S {r : Row} (h : r.tier = .S) (p : Prefixes) (isReg : Bool) :
    r.verdict false p isReg = r.verdict true p isReg := by
  simp [Row.verdict, h]

/-- What decoding gives at a selected row: the verdict on the row where there is one, else `x`. -/
def Parsed.unlessRefused (verdict : Option Reject) (bs : List Byte) (x : Parsed Instr) : Parsed Instr :=
  match verdict with
  | some v => .refuse v bs
  | none => x

theorem allOfTier_unlessRefused {t : Tier} {x : Parsed Instr} (hx : x.AllOfTier t) (verdict : Option Reject) (bs : List Byte) :
    (Parsed.unlessRefused verdict bs x).AllOfTier t := by
  cases verdict with
  | none => exact hx
  | some v => exact allOfTier_refuse t v bs

/-- The verdict on the selected row is where the gate stands. -/
theorem shutsOutTierG_verdict (r : Row) (p : Prefixes) (isReg : Bool) (bs : List Byte) {x : Parsed Instr} (hx : x.AllOfTier r.tier) :
    (Parsed.unlessRefused (r.verdict false p isReg) bs x).ShutsOutTierG (.unlessRefused (r.verdict true p isReg) bs x) := by
  have hall := allOfTier_unlessRefused hx (r.verdict true p isReg) bs
  cases h : r.tier with
  | S => exact .inl ⟨by rw [verdict_false_of_tier_S h], h ▸ hall⟩
  | G => exact .inr ⟨⟨bs, by rw [verdict_false_of_tier_G h, Parsed.unlessRefused]⟩, h ▸ hall⟩

theorem decodeOpcode_shutsOutTierG (p : Prefixes) (escape : Bool) (b : Byte) (bs : List Byte) :
    (decodeOpcode false p escape b bs).ShutsOutTierG (decodeOpcode true p escape b bs) := by
  unfold decodeOpcode
  cases formsAt escape b with
  | nil => exact shutsOutTierG_refuse _ _
  | cons f0 fs =>
    dsimp only
    split
    · refine shutsOutTierG_andThen _ fun mb bs => ?_
      cases (f0 :: fs).find? fun f => f.row.selected p mb with
      | none => exact shutsOutTierG_refuse _ _
      | some f =>
        refine shutsOutTierG_verdict f.row p (modOf mb == 3#2) bs ?_
        exact allOfTier_andThen _ fun _ _ => allOfTier_andThen _ fun _ _ => allOfTier_finish _ _
    · cases (f0 :: fs).find? fun f => f.row.selected p 0#8 with
      | none => exact shutsOutTierG_refuse _ _
      | some f =>
        refine shutsOutTierG_verdict f.row p true bs ?_
        exact allOfTier_andThen _ fun _ _ => allOfTier_finish _ _

theorem decodeWith_shutsOutTierG (bs : List Byte) : (decodeWith false bs).ShutsOutTierG (decodeWith true bs) := by
  refine shutsOutTierG_andThen _ fun p bs => shutsOutTierG_andThen _ fun b bs => ?_
  split
  · exact shutsOutTierG_andThen _ fun b2 bs => decodeOpcode_shutsOutTierG p true b2 bs
  · exact decodeOpcode_shutsOutTierG p false b bs

/-- Settles O47: the two decoders give the same outcome of tier S, or the shut gate refuses an outcome of tier G. -/
theorem tierGRefusedWhenNotAdmitted : Obligations.TierGRefusedWhenNotAdmitted := by
  intro bs rest i
  obtain ⟨hsame, hS⟩ | ⟨⟨rest', hrefuse⟩, hG⟩ := decodeWith_shutsOutTierG bs
  · refine ⟨⟨fun h => ?_, fun h => hsame.trans h.1⟩, fun h hi => ?_⟩
    · have h' := hsame.symm.trans h
      exact ⟨h', hS i rest h'⟩
    · exact absurd (hS i rest h) (by simp [hi])
  · refine ⟨⟨fun h => ?_, fun h => ?_⟩, fun _ _ => ⟨rest', hrefuse⟩⟩
    · simp [hrefuse] at h
    · exact absurd (hG i rest h.1) (by simp [h.2])

end Sys2Proof
end

section
/-! The register file and the footprints of instructions (10_state.md R31 to R41): what a register field names and what writing a view keeps; what
the effect record of each handler may hold. -/

namespace Sys2Proof.Machine

/-! ## Register fields -/

/-- 10_state.md R32: fields 4 to 7 name the high bytes of cells 0 to 3. -/
theorem cellOf8_ofNum (k : BitVec 3) : cellOf8 (Reg8.ofNum k) = if k.toNat < 4 then Reg.ofNum k else Reg.ofNum (k - 4#3) := by
  revert k
  decide

theorem isHigh8_ofNum (k : BitVec 3) : isHigh8 (Reg8.ofNum k) = decide (4 ≤ k.toNat) := by
  revert k
  decide

theorem readView_viewOfNum8 (x : RegFile) (k : BitVec 3) :
    x.readView (viewOfNum .w8 k) =
      if k.toNat < 4 then (x.get (Reg.ofNum k)).extractLsb' 0 8 else (x.get (Reg.ofNum (k - 4#3))).extractLsb' 8 8 := by
  simp only [viewOfNum, RegFile.readView, cellOf8_ofNum, isHigh8_ofNum, decide_eq_true_eq]
  by_cases hk : k.toNat < 4
  · rw [if_neg (by omega), if_pos hk, if_pos hk]
  · rw [if_pos (by omega), if_neg hk, if_neg hk]

/-- 10_state.md R31: the cells in the order of their numbers. -/
theorem cells_getElem?_num (r : Reg) : [Reg.eax, .ecx, .edx, .ebx, .esp, .ebp, .esi, .edi][r.num.toNat]? = some r := by
  cases r <;> rfl

/-- Settles O40: the view of each register field, and the laws of a view that is written. -/
theorem viewWriteKeepsOtherBits : Obligations.ViewWriteKeepsOtherBits :=
  ⟨fun x k => ⟨rfl, rfl, readView_viewOfNum8 x k⟩, fun r => ⟨cells_getElem?_num r, Reg.ofNum_num r⟩,
    fun s _ x v => regWritten_of_regs (setView_regs s x v)⟩

/-! ## What a commit leaves unchanged -/

theorem get_commitRegs_of_ne {x : RegFile} {ws : List RegWrite} {r : Reg} (h : ∀ w ∈ ws, r ≠ w.view.cell) :
    (commitRegs x ws).get r = x.get r := by
  induction ws generalizing x with
  | nil => rfl
  | cons w ws ih =>
    obtain ⟨hw, hws⟩ := List.forall_mem_cons.1 h
    rw [commitRegs_cons, ih hws, get_writeView_of_ne _ _ _ hw]

theorem getFlag_commitFlags_of_notMem {x : Flags} {fs : List (Flag × Bool)} {f : Flag} (h : f ∉ fs.map Prod.fst) :
    getFlag (commitFlags x fs) f = getFlag x f := by
  induction fs generalizing x with
  | nil => rfl
  | cons g gs ih =>
    obtain ⟨hg, hgs⟩ := List.ne_and_not_mem_of_not_mem_cons h
    rw [commitFlags_cons, ih hgs, getFlag_setFlag_of_ne _ _ hg]

/-! ## The destination of an operand list -/

/-- The place that an instruction stages its result to, where an operand names one. -/
def destination (m : Mnemonic) : Operands → Option ((w : Width) × Place w)
  | .one d => if oneIsSource m then none else some ⟨_, d⟩
  | .two d _ => if onlyReads m then none else some ⟨_, d⟩
  | .byteSrc d _ => if onlyReads m then none else some ⟨_, d⟩
  | .widen d _ => some ⟨_, d⟩
  | .three d _ _ => some ⟨_, d⟩
  | .none => none
  | .imm _ => none
  | .target _ => none

/-- The bytes that a mnemonic stores to on an operand list: `storesTo`, as a function of what an instruction is made of. -/
def storedBytes (m : Mnemonic) (o : Operands) (s : State) : Option (Nat × Nat) :=
  if m = .CALL then some ((s.regs.get .esp - 4#32).toNat, 4) else (destination m o).bind fun d => placeBytes s d.2

theorem storesTo_eq (i : Instr) (s : State) : storesTo i s = storedBytes i.mnemonic (operandsOf i) s := by
  unfold storesTo storedBytes
  split
  · rfl
  · cases operandsOf i with
    | one d => cases h : oneIsSource i.mnemonic <;> simp [destination, h]
    | two d x => cases h : onlyReads i.mnemonic <;> simp [destination, h]
    | byteSrc d x => cases h : onlyReads i.mnemonic <;> simp [destination, h]
    | _ => rfl

theorem operandCells_of_destination {m : Mnemonic} {o : Operands} {w : Width} {d : Place w} (h : destination m o = some ⟨w, d⟩) :
    operandCells m o = placeCells d := by
  cases o <;> simp only [destination, Option.ite_none_left_eq_some, Option.some.injEq, reduceCtorEq] at h
  case one => obtain ⟨hm, ⟨⟩⟩ := h; simp [operandCells, hm]
  case two => obtain ⟨hm, ⟨⟩⟩ := h; simp [operandCells, hm]
  case byteSrc => obtain ⟨hm, ⟨⟩⟩ := h; simp [operandCells, hm]
  case widen => cases h; rfl
  case three => cases h; rfl

/-! ## The footprint of an effect record -/

/-- The effect record holds no more than a mnemonic, at a width and on an operand list, may write (10_state.md R35, R41; 20_memory.md R72;
40_execution.md R176). -/
structure Effect.Within (e : Effect) (m : Mnemonic) (wd : Option Width) (o : Operands) (s : State) : Prop where
  cells : ∀ x ∈ e.regs, x.view.cell ∈ implicitCells m wd o ++ operandCells m o
  bytes : ∀ x ∈ e.mems, storedBytes m o s = some (x.addr, x.size)
  flags : e.flags.map Prod.fst ⊆ flagsWritten m
  ip : isTransfer m = false → e.ip = none

/-- A handler's answer, where it is an effect record, is within the footprint. -/
def AnswerWithin (r : Except Fault Effect) (m : Mnemonic) (wd : Option Width) (o : Operands) (s : State) : Prop :=
  ∀ e, r = .ok e → e.Within m wd o s

/-- Every effect record that the handler gives in the state is within the footprint. -/
def Handler.Within (h : Handler) (m : Mnemonic) (wd : Option Width) (o : Operands) (s : State) : Prop :=
  ∀ next, AnswerWithin (h s next) m wd o s

section
variable {m : Mnemonic} {wd : Option Width} {o : Operands} {s : State}

theorem answerWithin_ok {e : Effect} (h : e.Within m wd o s) : AnswerWithin (.ok e) m wd o s := by
  rintro _ ⟨⟩
  exact h

theorem answerWithin_error (f : Fault) : AnswerWithin (.error f) m wd o s := by
  rintro _ ⟨⟩

theorem answerWithin_bind {α : Type} {x : Except Fault α} {k : α → Except Fault Effect} (hk : ∀ a, AnswerWithin (k a) m wd o s) :
    AnswerWithin (x >>= k) m wd o s := by
  intro e h
  obtain ⟨a, -, ha⟩ := except_bind_ok.1 h
  exact hk a e ha

theorem answerWithin_ite {c : Prop} [Decidable c] {x y : Except Fault Effect} (hx : AnswerWithin x m wd o s)
    (hy : AnswerWithin y m wd o s) : AnswerWithin (if c then x else y) m wd o s := by
  split
  · exact hx
  · exact hy

/-! ## Effect records -/

theorem within_empty : Effect.Within {} m wd o s := ⟨by simp, by simp, by simp, fun _ => rfl⟩

/-- A record of registers and flags alone. -/
theorem within_regs {regs : List RegWrite} {flags : List (Flag × Bool)} (hr : ∀ x ∈ regs, x.view.cell ∈ implicitCells m wd o)
    (hf : flags.map Prod.fst ⊆ flagsWritten m) : Effect.Within { regs := regs, flags := flags } m wd o s :=
  ⟨fun x hx => List.mem_append_left _ (hr x hx), by simp, hf, fun _ => rfl⟩

theorem within_flags {flags : List (Flag × Bool)} (hf : flags.map Prod.fst ⊆ flagsWritten m) :
    Effect.Within { flags := flags } m wd o s :=
  within_regs (by simp) hf

/-- A write staged to the destination is one that the operands allow. -/
theorem within_stage {w : Width} {d : Place w} (v : BitVec w.bits) (hm : m ≠ .CALL) (hd : destination m o = some ⟨w, d⟩) :
    (stage s d v).Within m wd o s := by
  cases d with
  | reg x => exact ⟨by simp [stage, operandCells_of_destination hd, placeCells], by simp [stage], by simp [stage], fun _ => rfl⟩
  | mem e => exact ⟨by simp [stage], by simp [stage, storedBytes, hm, hd, placeBytes], by simp [stage], fun _ => rfl⟩

theorem Effect.Within.withFlags {e : Effect} {fs : List (Flag × Bool)} (he : e.Within m wd o s)
    (hf : fs.map Prod.fst ⊆ flagsWritten m) : (e.withFlags fs).Within m wd o s :=
  { cells := he.cells
    bytes := he.bytes
    flags := by simpa using ⟨he.flags, hf⟩
    ip := he.ip }

/-! ## The flags that each computation names -/

@[simp] theorem map_fst_resultFlags {n : Nat} (r : BitVec n) : (resultFlags r).map Prod.fst = [.SF, .ZF, .PF] := rfl
@[simp] theorem map_fst_sumFlags {n : Nat} (x : Sum n) : x.flags.map Prod.fst = [.CF, .OF, .AF, .SF, .ZF, .PF] := rfl
@[simp] theorem map_fst_sumFlagsKeepCarry {n : Nat} (x : Sum n) : x.flagsKeepCarry.map Prod.fst = [.OF, .AF, .SF, .ZF, .PF] := rfl
@[simp] theorem map_fst_logicFlags {n : Nat} (r : BitVec n) : (logicFlags r).map Prod.fst = [.CF, .OF, .SF, .ZF, .PF] := rfl
@[simp] theorem map_fst_undefFlags (m : Mnemonic) (w : Option Width) (xs : List Nat) (before : Flags) (fs : List Flag) :
    (undefFlags m w xs before fs).map Prod.fst = fs := by simp [undefFlags, Function.comp_def]

/-! ## Handlers that stage a result to their destination -/

section
variable {w : Width} {d : Place w} (hm : m ≠ .CALL) (hd : destination m o = some ⟨w, d⟩)
include hm hd

theorem binary_within {f : BitVec w.bits → BitVec w.bits → Flags → BitVec w.bits × List (Flag × Bool)} {src : Operand w}
    (hf : ∀ a b x, (f a b x).2.map Prod.fst ⊆ flagsWritten m) : (binary f d src).Within m wd o s := fun _ =>
  answerWithin_bind fun _ => answerWithin_bind fun _ => answerWithin_ok ((within_stage _ hm hd).withFlags (hf _ _ _))

theorem unary_within {f : BitVec w.bits → BitVec w.bits × List (Flag × Bool)} (hf : ∀ a, (f a).2.map Prod.fst ⊆ flagsWritten m) :
    (unary f d).Within m wd o s := fun _ =>
  answerWithin_bind fun _ => answerWithin_ok ((within_stage _ hm hd).withFlags (hf _))

theorem shiftBy_within {n : Mnemonic} {f : BitVec w.bits → Nat → Flags → (Flag → Bool) → Shifted w} {count : Operand .w8}
    (hf : ∀ a c x u, (f a c x u).2.map Prod.fst ⊆ flagsWritten m) : (shiftBy n f d count).Within m wd o s := fun _ =>
  answerWithin_bind fun _ => answerWithin_bind fun _ =>
    answerWithin_ite (answerWithin_ok (within_stage _ hm hd)) (answerWithin_ok ((within_stage _ hm hd).withFlags (hf _ _ _ _)))

theorem bitModify_within {v : Width} {f : BitVec w.bits → BitVec w.bits → BitVec w.bits} {idx : Operand v} (hf : .CF ∈ flagsWritten m) :
    (bitModify f d idx).Within m wd o s := fun _ =>
  answerWithin_bind fun _ => answerWithin_bind fun _ => answerWithin_ok ((within_stage _ hm hd).withFlags (by simpa using hf))

theorem scan_within {f : BitVec w.bits → Option Nat} {src : Operand w} (hf : .ZF ∈ flagsWritten m) :
    (scan f d src).Within m wd o s := fun _ => answerWithin_bind fun b => by
  cases f b with
  | none => exact answerWithin_ok (within_flags (by simpa using hf))
  | some k => exact answerWithin_ok ((within_stage _ hm hd).withFlags (by simpa using hf))

theorem movH_within {src : Operand w} : (movH d src).Within m wd o s := fun _ =>
  answerWithin_bind fun _ => answerWithin_ok (within_stage _ hm hd)

theorem movzxH_within {v : Width} {src : Place v} : (movzxH d src).Within m wd o s := fun _ =>
  answerWithin_bind fun _ => answerWithin_ok (within_stage _ hm hd)

theorem movsxH_within {v : Width} {src : Place v} : (movsxH d src).Within m wd o s := fun _ =>
  answerWithin_bind fun _ => answerWithin_ok (within_stage _ hm hd)

theorem leaH_within {e : EaExpr} : (leaH d e).Within m wd o s := fun _ => answerWithin_ok (within_stage _ hm hd)

theorem cmovH_within {cc : Cond} {src : Operand w} : (cmovH cc d src).Within m wd o s := fun _ =>
  answerWithin_bind fun _ => answerWithin_ite (answerWithin_ok (within_stage _ hm hd)) (answerWithin_ok within_empty)

end

/-- IMUL with a destination (R252, R253). -/
theorem imulTo_within {w : Width} {d : Place w} (a b : BitVec w.bits) (hd : destination .IMUL o = some ⟨w, d⟩) :
    (imulTo s d a b).Within .IMUL wd o s :=
  (within_stage _ (by decide) hd).withFlags (by simp [flagsWritten])

theorem compare_within {w : Width} {f : BitVec w.bits → BitVec w.bits → List (Flag × Bool)} {d : Place w} {src : Operand w}
    (hf : ∀ a b, (f a b).map Prod.fst ⊆ flagsWritten m) : (compare f d src).Within m wd o s := fun _ =>
  answerWithin_bind fun _ => answerWithin_bind fun _ => answerWithin_ok (within_flags (hf _ _))

theorem btH_within {w v : Width} {d : Place w} {idx : Operand v} : (btH d idx).Within .BT wd o s := fun _ =>
  answerWithin_bind fun _ => answerWithin_bind fun _ => answerWithin_ok (within_flags (by simp [flagsWritten]))

end

/-! ## Double-width results -/

/-- The cells of a product, or of a quotient and remainder (43_multiply_divide.md R250, R254): AX alone at width 8; what
`implicitCells` gives for MUL, DIV, IDIV and the one-operand IMUL. -/
def wideCells (wd : Option Width) : List Reg := if wd = some .w8 then [.eax] else [.eax, .edx]

/-- The operand of a list with one operand has the width of the row; a row without a width has no operand that needs one. -/
def Operands.OneHasWidth (o : Operands) (wd : Option Width) : Prop := ∀ {w : Width} {d : Place w}, o = .one d → wd.getD .w32 = w

theorem operandsOf_oneHasWidth (i : Instr) : (operandsOf i).OneHasWidth i.width := by
  intro w d h
  unfold operandsOf rowOperands at h
  cases hf : i.form.row.format <;> simp only [hf] at h
  case M | O => cases h; rfl
  case RM | MI => split at h <;> cases h
  all_goals cases h

theorem writeProduct_cells (wd : Option Width) (p : Nat) : ∀ x ∈ writeProduct (wd.getD .w32) p, x.view.cell ∈ wideCells wd := by
  obtain - | - | - | - := wd <;> simp [writeProduct, wideCells, View.cell]

theorem writeQuotient_cells (wd : Option Width) (q r : BitVec (wd.getD .w32).bits) :
    ∀ x ∈ writeQuotient (wd.getD .w32) q r, x.view.cell ∈ wideCells wd := by
  obtain - | - | - | - := wd <;> simp [writeQuotient, wideCells, View.cell, cellOf8]

section
variable {wd : Option Width} {o : Operands} {s : State} (src : Place (wd.getD .w32))

theorem mulH_within : (mulH src).Within .MUL wd o s := fun _ =>
  answerWithin_bind fun _ => answerWithin_ok (within_regs (writeProduct_cells wd _) (by simp [flagsWritten]))

theorem imulH_within {w : Width} {d : Place w} : (imulH src).Within .IMUL wd (.one d) s := fun _ =>
  answerWithin_bind fun _ => answerWithin_ok (within_regs (writeProduct_cells wd _) (by simp [flagsWritten]))

theorem divH_within : (divH src).Within .DIV wd o s := fun _ =>
  answerWithin_bind fun _ => answerWithin_ite (answerWithin_error _) (answerWithin_ite (answerWithin_error _)
    (answerWithin_ok (within_regs (writeQuotient_cells wd _ _) (by simp [divFlags, flagsWritten]))))

theorem idivH_within : (idivH src).Within .IDIV wd o s := fun _ =>
  answerWithin_bind fun _ => answerWithin_ite (answerWithin_error _) (answerWithin_ite (answerWithin_error _)
    (answerWithin_ok (within_regs (writeQuotient_cells wd _ _) (by simp [divFlags, flagsWritten]))))

end

/-! ## Handlers without a destination operand -/

section
variable {m : Mnemonic} {wd : Option Width} {o : Operands} {s : State}

theorem noH_within : noH.Within m wd o s := fun _ => answerWithin_ok within_empty

theorem aadH_within (base : Byte) : (aadH base).Within .AAD wd o s := fun _ =>
  answerWithin_ok (within_regs (by simp [implicitCells, View.cell, cellOf8]) (by simp [flagsWritten]))

theorem aamH_within (base : Byte) : (aamH base).Within .AAM wd o s := fun _ =>
  answerWithin_ite (answerWithin_error _)
    (answerWithin_ok (within_regs (by simp [implicitCells, View.cell, cellOf8]) (by simp [flagsWritten])))

theorem cbwH_within : cbwH.Within .CBW wd o s := fun _ =>
  answerWithin_ok (within_regs (by simp [implicitCells, View.cell]) (by simp))

theorem cwdeH_within : cwdeH.Within .CWDE wd o s := fun _ =>
  answerWithin_ok (within_regs (by simp [implicitCells, View.cell]) (by simp))

theorem cwdH_within : cwdH.Within .CWD wd o s := fun _ =>
  answerWithin_ok (within_regs (by simp [implicitCells, View.cell]) (by simp))

theorem cdqH_within : cdqH.Within .CDQ wd o s := fun _ =>
  answerWithin_ok (within_regs (by simp [implicitCells, View.cell]) (by simp))

theorem cmpsH_within {w : Width} (hc : implicitCells m wd o = [.esi, .edi]) (hf : [.CF, .OF, .AF, .SF, .ZF, .PF] ⊆ flagsWritten m) :
    (cmpsH w).Within m wd o s := fun _ =>
  answerWithin_bind fun _ => answerWithin_bind fun _ =>
    answerWithin_ok (within_regs (by simp [hc, View.cell]) (by rwa [map_fst_sumFlags]))

theorem flagH_within {f : Flag} {b : Bool} (hf : f ∈ flagsWritten m) : (flagH f b).Within m wd o s := fun _ =>
  answerWithin_ok (within_flags (by simpa using hf))

theorem cmcH_within : cmcH.Within .CMC wd o s := fun _ => answerWithin_ok (within_flags (by simp [flagsWritten]))

/-! ## Control transfer -/

/-- A record that sets EIP alone. -/
theorem within_ip (ht : isTransfer m = true) (ip : Option Word) : Effect.Within { ip := ip } m wd o s :=
  ⟨by simp, by simp, by simp, by simp [ht]⟩

/-- A push by CALL (R350): ESP and the slot below it. -/
theorem within_push (v : Word) (ip : Option Word) : Effect.Within { push s v with ip := ip } .CALL wd o s :=
  ⟨by simp [push, implicitCells, View.cell], by simp [push, storedBytes], by simp [push], by simp [isTransfer]⟩

theorem callH_within (disp : Word) : (callH disp).Within .CALL wd o s := fun next => answerWithin_ok (within_push next _)

theorem callIndirectH_within (src : Place .w32) : (callIndirectH src).Within .CALL wd o s := fun next =>
  answerWithin_bind fun _ => answerWithin_ok (within_push next _)

theorem retH_within (n : BitVec 16) : (retH n).Within .RET wd o s := fun _ =>
  answerWithin_bind fun _ =>
    answerWithin_ok ⟨by simp [implicitCells, View.cell], by simp, by simp, by simp [isTransfer]⟩

theorem jmpH_within (disp : Word) : (jmpH disp).Within .JMP wd o s := fun _ => answerWithin_ok (within_ip rfl _)

theorem jmpIndirectH_within (src : Place .w32) : (jmpIndirectH src).Within .JMP wd o s := fun _ =>
  answerWithin_bind fun _ => answerWithin_ok (within_ip rfl _)

theorem jccH_within (cc : Cond) (disp : Word) (ht : isTransfer m = true) : (jccH cc disp).Within m wd o s := fun _ =>
  answerWithin_ite (answerWithin_ok (within_ip ht _)) (answerWithin_ok within_empty)

/-! ## Operand lists: a handler for its own shape is enough, since the others get `noH` -/

theorem onTwo_within {f : {w : Width} → Place w → Operand w → Handler}
    (h : ∀ {w : Width} (d : Place w) (src : Operand w), (f d src).Within m wd (.two d src) s) : (onTwo o f).Within m wd o s := by
  cases o with
  | two d src => exact h d src
  | _ => exact noH_within

theorem onOne_within {f : {w : Width} → Place w → Handler} (h : ∀ {w : Width} (d : Place w), (f d).Within m wd (.one d) s) :
    (onOne o f).Within m wd o s := by
  cases o with
  | one d => exact h d
  | _ => exact noH_within

/-- A handler whose footprint depends on the width of its row. -/
theorem onOne_within_of_width {f : {w : Width} → Place w → Handler} (ho : o.OneHasWidth wd)
    (h : ∀ d : Place (wd.getD .w32), (f d).Within m wd (.one d) s) : (onOne o f).Within m wd o s := by
  cases o with
  | one d =>
    obtain rfl := ho rfl
    exact h d
  | _ => exact noH_within

theorem onByte_within {f : {w : Width} → Place w → Operand .w8 → Handler}
    (h : ∀ {w : Width} (d : Place w) (src : Operand .w8), (f d src).Within m wd (.byteSrc d src) s) :
    (onByte o f).Within m wd o s := by
  cases o with
  | byteSrc d src => exact h d src
  | _ => exact noH_within

theorem onBit_within {f : {w v : Width} → Place w → Operand v → Handler}
    (htwo : ∀ {w : Width} (d : Place w) (src : Operand w), (f d src).Within m wd (.two d src) s)
    (hbyte : ∀ {w : Width} (d : Place w) (src : Operand .w8), (f d src).Within m wd (.byteSrc d src) s) :
    (onBit o f).Within m wd o s := by
  cases o with
  | two d src => exact htwo d src
  | byteSrc d src => exact hbyte d src
  | _ => exact noH_within

theorem onWiden_within {f : {w v : Width} → Place w → Place v → Handler}
    (h : ∀ {w v : Width} (d : Place w) (src : Place v), (f d src).Within m wd (.widen d src) s) : (onWiden o f).Within m wd o s := by
  cases o with
  | widen d src => exact h d src
  | _ => exact noH_within

theorem onImm_within {f : Byte → Handler} (h : ∀ v, (f v).Within m wd o s) : (onImm o f).Within m wd o s := by
  unfold onImm
  split
  · exact h _
  · exact noH_within

theorem onTarget_within {f : Word → Handler} (h : ∀ disp, (f disp).Within m wd o s) : (onTarget o f).Within m wd o s := by
  unfold onTarget
  split
  · exact h _
  · exact noH_within

theorem onJump_within {f : Word → Handler} {g : Place .w32 → Handler} (hf : ∀ disp, (f disp).Within m wd o s)
    (hg : ∀ p, (g p).Within m wd o s) : (onJump o f g).Within m wd o s := by
  unfold onJump
  split
  · exact hf _
  · exact hg _
  · exact noH_within

theorem onImul_within (ho : o.OneHasWidth wd) : (onImul o).Within .IMUL wd o s := by
  cases o with
  | one d =>
    obtain rfl := ho rfl
    exact imulH_within d
  | two d src =>
    exact fun _ => answerWithin_bind fun _ => answerWithin_bind fun _ => answerWithin_ok (imulTo_within _ _ rfl)
  | three d src imm =>
    exact fun _ => answerWithin_bind fun _ => answerWithin_bind fun _ => answerWithin_ok (imulTo_within _ _ rfl)
  | _ => exact noH_within

theorem onBswap_within : (onBswap o).Within .BSWAP wd o s := by
  unfold onBswap
  split
  · exact unary_within (by decide) rfl (by simp)
  · exact noH_within

theorem onLea_within : (onLea o).Within .LEA wd o s := by
  unfold onLea
  split
  · exact leaH_within (by decide) rfl
  · exact noH_within

theorem onRet_within : (onRet o).Within .RET wd o s := by
  unfold onRet
  split
  · exact retH_within _
  · exact retH_within _
  · exact noH_within

/-! ## Every mnemonic -/

/-- Every handler writes no more than its mnemonic may. -/
theorem handlerFor_within (ho : o.OneHasWidth wd) : (handlerFor m o).Within m wd o s := by
  cases m
  case ADD | ADC | SUB | SBB | AND | OR | XOR =>
    exact onTwo_within fun _ _ => binary_within (by decide) rfl fun _ _ _ => by simp [flagsWritten]
  case CMP | TEST => exact onTwo_within fun _ _ => compare_within fun _ _ => by simp [flagsWritten]
  case INC | DEC | NEG | NOT => exact onOne_within fun _ => unary_within (by decide) rfl fun _ => by simp [flagsWritten]
  case ROL | ROR | RCL | RCR =>
    exact onByte_within fun _ _ => shiftBy_within (by decide) rfl fun _ _ _ _ => by
      simp [rolResult, rorResult, rclResult, rcrResult, flagsWritten]
  case SHL | SHR | SAR =>
    exact onByte_within fun _ _ => shiftBy_within (by decide) rfl fun _ _ _ _ => by
      simp [shlResult, shrResult, sarResult, flagsWritten]
  case MUL => exact onOne_within_of_width ho fun d => mulH_within d
  case DIV => exact onOne_within_of_width ho fun d => divH_within d
  case IDIV => exact onOne_within_of_width ho fun d => idivH_within d
  case IMUL => exact onImul_within ho
  case MOV => exact onTwo_within fun _ _ => movH_within (by decide) rfl
  case LEA => exact onLea_within
  case MOVZX => exact onWiden_within fun _ _ => movzxH_within (by decide) rfl
  case MOVSX => exact onWiden_within fun _ _ => movsxH_within (by decide) rfl
  case CBW => exact cbwH_within
  case CWDE => exact cwdeH_within
  case CWD => exact cwdH_within
  case CDQ => exact cdqH_within
  case CMPSB | CMPSW | CMPSD => exact cmpsH_within rfl (by decide)
  case CLC | STC | CLD | STD => exact flagH_within (by decide)
  case CMC => exact cmcH_within
  case AAM => exact onImm_within aamH_within
  case AAD => exact onImm_within aadH_within
  case CALL => exact onJump_within callH_within callIndirectH_within
  case RET => exact onRet_within
  case JMP => exact onJump_within jmpH_within jmpIndirectH_within
  case JO | JNO | JB | JAE | JE | JNE | JBE | JA | JS | JNS | JP | JNP | JL | JGE | JLE | JG =>
    exact onTarget_within fun disp => jccH_within _ disp (by decide)
  case CMOVO | CMOVNO | CMOVB | CMOVAE | CMOVE | CMOVNE | CMOVBE | CMOVA | CMOVS | CMOVNS | CMOVP | CMOVNP | CMOVL | CMOVGE | CMOVLE
      | CMOVG =>
    exact onTwo_within fun _ _ => cmovH_within (by decide) rfl
  case BSF | BSR => exact onTwo_within fun _ _ => scan_within (by decide) rfl (by decide)
  case BSWAP => exact onBswap_within
  case BT => exact onBit_within (fun _ _ => btH_within) fun _ _ => btH_within
  case BTS | BTR | BTC =>
    exact onBit_within (fun _ _ => bitModify_within (by decide) rfl (by decide)) fun _ _ => bitModify_within (by decide) rfl (by decide)

end

/-- Settles O54: the next state is the commit of an effect record within the footprint, and a commit changes only what its record holds. -/
theorem footprintOfEveryInstruction : Obligations.FootprintOfEveryInstruction := by
  intro i s t h
  rw [exec_eq_perform, perform_next] at h
  obtain ⟨e, he, -, rfl⟩ := h
  obtain ⟨hcells, hbytes, hflags, hip⟩ := handlerFor_within (operandsOf_oneHasWidth i) _ e he
  refine ⟨fun r hr => ?_, fun f hf => ?_, fun ht => ?_, fun b hb => ?_, rfl⟩
  · exact get_commitRegs_of_ne fun w hw => ne_of_mem_of_not_mem (hcells w hw) hr |>.symm
  · exact getFlag_commitFlags_of_notMem fun hm => hf (hflags hm)
  · simp [Advanced, hip ht, nextIp]
  · exact read_commitMems_of_outside fun w hw => hb _ _ ((storesTo_eq i s).trans (hbytes w hw))

end Sys2Proof.Machine
end

section
/-! The address space across steps and host calls (20_memory.md R60 to R69, R77): what a step keeps of it, what the checked accesses give, and what
`mmap` adds. -/

namespace Sys2Proof.Machine

/-! ## Well-formed address spaces -/

theorem Mapping.wf_iff {p : Nat} {m : Mapping} :
    m.wf p = true ↔ 0 < m.size ∧ m.start % p = 0 ∧ m.size % p = 0 ∧ m.start + m.size ≤ 2 ^ 32 := by
  simp [Mapping.wf, and_assoc]

theorem Mapping.contains_iff {m : Mapping} {a : Nat} : m.contains a = true ↔ m.start ≤ a ∧ a < m.start + m.size := by
  simp [Mapping.contains]

theorem mapsWf_cons {p : Nat} {m : Mapping} {ms : List Mapping} :
    mapsWf p (m :: ms) = true ↔ m.wf p = true ∧ (∀ n ∈ ms, m.start + m.size ≤ n.start) ∧ mapsWf p ms = true := by
  simp [mapsWf, and_assoc]

theorem wf_of_mem_maps {p : Nat} {m : Mapping} {ms : List Mapping} (h : mapsWf p ms = true) (hm : m ∈ ms) : m.wf p = true := by
  induction ms with
  | nil => cases hm
  | cons n ns ih =>
    obtain ⟨hn, -, hns⟩ := mapsWf_cons.1 h
    rcases List.mem_cons.1 hm with rfl | hm
    · exact hn
    · exact ih hns hm

theorem AddressSpace.mapped_iff {x : AddressSpace} {a : Nat} : x.mapped a = true ↔ ∃ m ∈ x.maps, m.contains a = true := by
  simp [AddressSpace.mapped]

/-- A mapped address is an address: below 2^32. -/
theorem AddressSpace.lt_of_mapped {x : AddressSpace} {p a : Nat} (h : mapsWf p x.maps = true) (ha : x.mapped a = true) : a < 2 ^ 32 := by
  obtain ⟨m, hm, hc⟩ := mapped_iff.1 ha
  obtain ⟨-, -, -, hend⟩ := Mapping.wf_iff.1 (wf_of_mem_maps h hm)
  obtain ⟨-, hlt⟩ := Mapping.contains_iff.1 hc
  omega

theorem AddressSpace.wf_iff {x : AddressSpace} {p : Nat} :
    x.wf p = true ↔ mapsWf p x.maps = true ∧ Memory.wf x.bytes = true ∧ ∀ c ∈ x.bytes, c.1 < 2 ^ 32 := by
  simp [AddressSpace.wf, and_assoc]

/-! ## What a step does to it -/

/-- All that a step can do when it gives a next state: the commit of a validated effect record. -/
theorem stepWith_next {cfg : Config} {s t : State} (h : stepWith cfg s = .next t) :
    ∃ e n, validate s.mem e.mems = none ∧ t = commit s e n := by
  unfold stepWith at h
  split at h
  · cases h
  · rw [exec_eq_perform, perform_next] at h
    obtain ⟨e, -, hv, rfl⟩ := h
    exact ⟨e, _, hv, rfl⟩

/-- A byte of a validated write is admitted. -/
theorem admits_of_validate {x : AddressSpace} {ws : List MemWrite} {w : MemWrite} {a : Nat} (hv : validate x ws = none) (hw : w ∈ ws)
    (hle : w.addr ≤ a) (hlt : a < w.addr + w.size) : x.admits .write a = true := by
  have h := validate_eq_none.1 hv w hw (a - w.addr) (by omega)
  rwa [Nat.add_sub_cancel' hle] at h

theorem commit_keeps_wf {s : State} {e : Effect} {p : Nat} (n : Word) (hs : s.mem.wf p = true) (hv : validate s.mem e.mems = none) :
    (commit s e n).mem.wf p = true := by
  obtain ⟨hmaps, hmem, hlt⟩ := AddressSpace.wf_iff.1 hs
  refine AddressSpace.wf_iff.2 ⟨hmaps, commitMems_wf _ hmem, fun c hc => ?_⟩
  obtain ⟨w, hw, hle, hin⟩ | hc := mem_commitMems hc
  · exact AddressSpace.lt_of_mapped hmaps (AddressSpace.mapped_of_admits (admits_of_validate hv hw hle hin))
  · exact hlt c hc

/-- The step keeps a well-formed address space, at any parameters and for any page size. -/
theorem stepWith_keeps_wf {cfg : Config} {s t : State} {p : Nat} (hs : s.mem.wf p = true) (h : stepWith cfg s = .next t) :
    t.mem.wf p = true := by
  obtain ⟨e, n, hv, rfl⟩ := stepWith_next h
  exact commit_keeps_wf n hs hv

/-- Settles O58: a committed write was validated, so it lies in the mappings, and a commit keeps the canonical form. -/
theorem stepKeepsInvariant : Obligations.StepKeepsInvariant := fun _ _ => stepWith_keeps_wf

/-- Settles O59: reset has no mapping and lists no byte. -/
theorem resetHasInvariant : Obligations.ResetHasInvariant :=
  AddressSpace.wf_iff.2 ⟨rfl, rfl, by simp [State.reset]⟩

/-- Settles O55: a byte outside every committed write is unchanged, and a committed write was validated. -/
theorem onlyWritableBytesChange : Obligations.OnlyWritableBytesChange := by
  intro s t h
  obtain ⟨e, n, hv, rfl⟩ := stepWith_next h
  refine ⟨rfl, fun a hne => ?_⟩
  by_contra hna
  refine hne (read_commitMems_of_outside fun w hw => ?_)
  by_contra hin
  exact hna (admits_of_validate hv hw (by omega) (by omega))

/-! ## Checked accesses -/

/-- The check gives the fault of the first byte that is not admitted. -/
theorem AddressSpace.check_of_first {x : AddressSpace} {k : Access} {a n j : Nat} (hj : j < n) (hbelow : x.Admitted k a j)
    (h : x.admits k (a + j) = false) :
    x.check k a n = some (.memoryFault (if x.mapped (a + j) then .permissionDenied else .unmapped) (a + j)) := by
  rw [← AddressSpace.faultAt_eq]
  exact AddressSpace.check_eq_some.2 ⟨j, hj, hbelow, h, rfl⟩

/-- Byte `k` of a little-endian value of width `w` (R66). -/
theorem extract_readLE (m : Memory) (w : Width) (a : Nat) {k : Nat} (hk : k < w.bytes) :
    (BitVec.ofNat w.bits (Memory.readLE m a w.bytes)).extractLsb' (8 * k) 8 = Memory.read m (a + k) := by
  have hw : 2 ^ w.bits = 256 ^ w.bytes := by cases w <;> rfl
  apply BitVec.eq_of_toNat_eq
  rw [BitVec.extractLsb'_toNat, BitVec.toNat_ofNat, hw, Nat.mod_eq_of_lt (Memory.readLE_lt m a w.bytes), Nat.shiftRight_eq_div_pow,
    Nat.pow_mul]
  exact Memory.readLE_byte m hk

/-- Settles O41: the check decides between the little-endian value and the first failing byte's fault. -/
theorem checkedReadGivesValueOrFirstFault : Obligations.CheckedReadGivesValueOrFirstFault := by
  intro x w a
  refine ⟨fun h => ⟨_, memRead_admitted h, fun k hk => extract_readLE _ _ _ hk⟩, fun j hj hbelow h => ?_⟩
  rw [memRead, AddressSpace.check_of_first hj hbelow h]

theorem hostWrite_admitted {x : AddressSpace} {a : Nat} {bs : List Byte} (h : x.Admitted .write a bs.length) :
    hostWrite x a bs = .ok { x with bytes := storeBytes x.bytes a bs } := by
  rw [hostWrite, AddressSpace.check_eq_none.2 h]

theorem hostRead_admitted {x : AddressSpace} {a n : Nat} (h : x.Admitted .read a n) : hostRead x a n = .ok (bytesAt x.bytes a n) := by
  rw [hostRead, AddressSpace.check_eq_none.2 h]

/-- Settles O42: as for a step's accesses, with any number of bytes. -/
theorem hostAccessIsAllOrNothing : Obligations.HostAccessIsAllOrNothing := by
  intro x a bs
  refine ⟨fun h => ?_, fun j hj hbelow h => ?_, fun n => ⟨fun h => ?_, fun j hj hbelow h => ?_⟩⟩
  · exact ⟨_, hostWrite_admitted h, rfl, read_storeBytes_inside _ _ _, fun b hb => read_storeBytes_outside _ _ hb⟩
  · rw [hostWrite, AddressSpace.check_of_first hj hbelow h]
  · exact ⟨_, hostRead_admitted h, bytesAt_length _ _ _, bytesAt_getElem _ _ _⟩
  · rw [hostRead, AddressSpace.check_of_first hj hbelow h]

/-! ## Mapping a region -/

/-- The region is one that `mmap` refuses, as the model checks it (R62). -/
def MmapRefuses (cfg : Config) (x : AddressSpace) (m : Mapping) : Prop :=
  m.size = 0 ∨ m.start % cfg.pageSize ≠ 0 ∨ m.size % cfg.pageSize ≠ 0 ∨ 2 ^ 32 < m.start + m.size ∨
    x.maps.any (fun n => m.overlaps n) = true

theorem mmap_of_refuses {cfg : Config} {x : AddressSpace} {addr size : Nat} {perm : Perm} (h : MmapRefuses cfg x ⟨addr, size, perm⟩) :
    mmap cfg x addr size perm = .error .mapError := if_pos h

theorem mmap_of_not_refuses {cfg : Config} {x : AddressSpace} {addr size : Nat} {perm : Perm}
    (h : ¬ MmapRefuses cfg x ⟨addr, size, perm⟩) :
    mmap cfg x addr size perm = .ok { x with maps := insertMapping ⟨addr, size, perm⟩ x.maps } := if_neg h

theorem mmap_eq_error {cfg : Config} {x : AddressSpace} {addr size : Nat} {perm : Perm} :
    mmap cfg x addr size perm = .error .mapError ↔ MmapRefuses cfg x ⟨addr, size, perm⟩ := by
  by_cases h : MmapRefuses cfg x ⟨addr, size, perm⟩
  · exact iff_of_true (mmap_of_refuses h) h
  · exact iff_of_false (by simp [mmap_of_not_refuses h]) h

theorem mmap_eq_ok {cfg : Config} {x y : AddressSpace} {addr size : Nat} {perm : Perm} :
    mmap cfg x addr size perm = .ok y ↔
      ¬ MmapRefuses cfg x ⟨addr, size, perm⟩ ∧ y = { x with maps := insertMapping ⟨addr, size, perm⟩ x.maps } := by
  by_cases h : MmapRefuses cfg x ⟨addr, size, perm⟩
  · simp [mmap_of_refuses h, h]
  · simp [mmap_of_not_refuses h, h, eq_comm]

/-- Regions that are not empty overlap where they share a byte. -/
theorem Mapping.overlaps_iff {m n : Mapping} (hm : 0 < m.size) (hn : 0 < n.size) :
    m.overlaps n = true ↔ ∃ a, m.contains a = true ∧ n.contains a = true := by
  simp only [Mapping.overlaps, Bool.and_eq_true, decide_eq_true_eq, Mapping.contains_iff]
  constructor
  · intro ⟨h1, h2⟩
    exact ⟨max m.start n.start, by omega⟩
  · rintro ⟨a, h1, h2⟩
    omega

theorem any_overlaps_iff {x : AddressSpace} {p : Nat} {m : Mapping} (hx : mapsWf p x.maps = true) (hm : 0 < m.size) :
    x.maps.any (fun n => m.overlaps n) = true ↔ ∃ a, m.contains a = true ∧ x.mapped a = true := by
  simp only [List.any_eq_true, AddressSpace.mapped_iff]
  constructor
  · rintro ⟨n, hn, ho⟩
    obtain ⟨a, ha, hna⟩ := (Mapping.overlaps_iff hm (Mapping.wf_iff.1 (wf_of_mem_maps hx hn)).1).1 ho
    exact ⟨a, ha, n, hn, hna⟩
  · rintro ⟨a, ha, n, hn, hna⟩
    exact ⟨n, hn, (Mapping.overlaps_iff hm (Mapping.wf_iff.1 (wf_of_mem_maps hx hn)).1).2 ⟨a, ha, hna⟩⟩

theorem insertMapping_perm (m : Mapping) (ms : List Mapping) : (insertMapping m ms).Perm (m :: ms) := by
  induction ms with
  | nil => exact .refl _
  | cons n ns ih =>
    unfold insertMapping
    split
    · exact .refl _
    · exact (ih.cons n).trans (.swap m n ns)

/-- Insertion in start order keeps mappings well formed: with no overlap, the one before ends where the new one starts or below. -/
theorem mapsWf_insertMapping {p : Nat} {m : Mapping} {ms : List Mapping} (hm : m.wf p = true) (hms : mapsWf p ms = true)
    (hdisj : ∀ n ∈ ms, m.overlaps n = false) : mapsWf p (insertMapping m ms) = true := by
  induction ms with
  | nil => exact mapsWf_cons.2 ⟨hm, by simp, rfl⟩
  | cons n ns ih =>
    obtain ⟨hn, hafter, hns⟩ := mapsWf_cons.1 hms
    obtain ⟨hdisjn, hdisjns⟩ := List.forall_mem_cons.1 hdisj
    simp only [Mapping.overlaps, Bool.and_eq_false_iff, decide_eq_false_iff_not] at hdisjn
    obtain ⟨hmpos, -⟩ := Mapping.wf_iff.1 hm
    obtain ⟨hnpos, -⟩ := Mapping.wf_iff.1 hn
    unfold insertMapping
    split
    · refine mapsWf_cons.2 ⟨hm, List.forall_mem_cons.2 ⟨by omega, fun q hq => ?_⟩, hms⟩
      have := hafter q hq
      omega
    · refine mapsWf_cons.2 ⟨hn, fun q hq => ?_, ih hns hdisjns⟩
      rcases List.mem_cons.1 ((insertMapping_perm m ns).mem_iff.1 hq) with rfl | hq
      · omega
      · exact hafter q hq

/-- The new mapping admits its own bytes, with its permissions. -/
theorem admits_insertMapping (x : AddressSpace) (m : Mapping) (k : Access) (a : Nat) :
    AddressSpace.admits { x with maps := insertMapping m x.maps } k a = (m.contains a && m.perm.allows k || x.admits k a) :=
  (insertMapping_perm m x.maps).any_eq

/-- Settles O43: the overlap check is the shared byte of R62, and insertion in start order keeps the mappings well formed. -/
theorem mmapAddsRegionOrIsRefused : Obligations.MmapAddsRegionOrIsRefused := by
  intro cfg x addr size perm hx
  obtain ⟨hmaps, hmem, hlt⟩ := AddressSpace.wf_iff.1 hx
  constructor
  · rw [mmap_eq_error, MmapRefuses]
    rcases Nat.eq_zero_or_pos size with h0 | hpos
    · simp [h0]
    · simp only [any_overlaps_iff (m := ⟨addr, size, perm⟩) hmaps hpos, Mapping.contains_iff, and_assoc]
  · intro y hy
    obtain ⟨hok, rfl⟩ := mmap_eq_ok.1 hy
    simp only [MmapRefuses, not_or, not_not, Nat.not_lt, Bool.not_eq_true, List.any_eq_false] at hok
    obtain ⟨hsize, haddr, hpages, hend, hdisj⟩ := hok
    have hm : Mapping.wf cfg.pageSize ⟨addr, size, perm⟩ = true := Mapping.wf_iff.2 ⟨Nat.pos_of_ne_zero hsize, haddr, hpages, hend⟩
    refine ⟨rfl, insertMapping_perm _ _, AddressSpace.wf_iff.2 ⟨mapsWf_insertMapping hm hmaps hdisj, hmem, hlt⟩, fun k a => ?_⟩
    rw [admits_insertMapping, Mapping.contains, Bool.decide_and]

end Sys2Proof.Machine
end

section
/-! Faults of fetch and decode (20_memory.md R70; 60_exceptions.md R445): the fetch gives the bytes that are admitted, and the decoder stops at the
one that settles a verdict. -/

namespace Sys2Proof.Machine

/-- A fetch of more bytes begins with those that are admitted. -/
theorem fetchRun_add {x : AddressSpace} {a n : Nat} (h : x.Admitted .execute a n) (k : Nat) :
    fetchRun x (n + k) a = bytesAt x.bytes a n ++ fetchRun x k (a + n) := by
  induction n generalizing a with
  | zero => rw [Nat.zero_add]; rfl
  | succ n ih =>
    have hhead : x.admits .execute a = true := h 0 (by omega)
    have htail : x.Admitted .execute (a + 1) n := fun j hj => by
      rw [show a + 1 + j = a + (j + 1) by omega]
      exact h (j + 1) (by omega)
    rw [Nat.add_right_comm, fetchRun, if_pos hhead, ih htail, bytesAt, List.cons_append, show a + 1 + n = a + (n + 1) by omega]

/-- A fetch ends before a byte that is not admitted. -/
theorem fetchRun_of_not_admits {x : AddressSpace} {a : Nat} (h : x.admits .execute a = false) (n : Nat) : fetchRun x n a = [] := by
  cases n with
  | zero => rfl
  | succ n => rw [fetchRun, h]; rfl

section
variable {cfg : Config} {s : State} {n : Nat} (h : s.mem.Admitted .execute s.eip.toNat n)
include h

/-- A verdict settled by the last of the bytes that may be fetched is the fault, with those bytes: the decoder does not look further. -/
theorem fetchDecode_of_verdict {v : Reject} (hn : n ≤ cfg.maxInsnLen)
    (hv : decodeWith cfg.admitTierG (bytesAt s.mem.bytes s.eip.toNat n) = .refuse v []) :
    fetchDecode cfg s = .error (verdictFault v s.eip (bytesAt s.mem.bytes s.eip.toNat n)) := by
  obtain ⟨k, hk⟩ := Nat.exists_eq_add_of_le hn
  have hdecode := (stable_decodeWith cfg.admitTierG _ (fetchRun s.mem k (s.eip.toNat + n))).2 v [] hv
  simp [fetchDecode, hk, fetchRun_add h, hdecode]

/-- Bytes that settle nothing, before one that may not be fetched, give that byte's fault. -/
theorem fetchDecode_of_more (hn : n < cfg.maxInsnLen)
    (hmore : decodeWith cfg.admitTierG (bytesAt s.mem.bytes s.eip.toNat n) = .more)
    (hnext : s.mem.admits .execute (s.eip.toNat + n) = false) : fetchDecode cfg s = .error (s.mem.faultAt (s.eip.toNat + n)) := by
  obtain ⟨k, hk⟩ := Nat.exists_eq_add_of_le hn.le
  have hrun : fetchRun s.mem cfg.maxInsnLen s.eip.toNat = bytesAt s.mem.bytes s.eip.toNat n := by
    rw [hk, fetchRun_add h, fetchRun_of_not_admits hnext, List.append_nil]
  simp [fetchDecode, hrun, hmore, hn]

end

theorem stepWith_of_fetchDecode_error {cfg : Config} {s : State} {f : Fault} (h : fetchDecode cfg s = .error f) :
    stepWith cfg s = .fault f := by
  simp only [stepWith, h, raise]

/-- Settles O51: the fetched bytes are the admitted ones up to where the decoder stops, by what it read or by the byte it may not read. -/
theorem fetchAndDecodeFaultsInOrder : Obligations.FetchAndDecodeFaultsInOrder := by
  intro s n h hn
  refine ⟨fun hv => ?_, fun hv => ?_, fun hmore hlt hnext => ?_⟩
  · exact stepWith_of_fetchDecode_error (fetchDecode_of_verdict h hn hv)
  · exact stepWith_of_fetchDecode_error (fetchDecode_of_verdict h hn hv)
  · rw [← AddressSpace.faultAt_eq]
    exact stepWith_of_fetchDecode_error (fetchDecode_of_more h hlt hmore hnext)

end Sys2Proof.Machine
end

section
/-! No step depends on a byte that no mapping holds (20_memory.md R60, R64): the fetch and the checked reads see admitted bytes only, and each
handler sees memory through its checked reads. -/

namespace Sys2Proof.Machine

/-! ## Other bytes where no mapping is -/

/-- The address space with other bytes. -/
def AddressSpace.withBytes (x : AddressSpace) (m : Memory) : AddressSpace := { x with bytes := m }

/-- The state with other bytes of memory. -/
def State.withBytes (s : State) (m : Memory) : State := { s with mem := s.mem.withBytes m }

/-- The memory holds the same byte at every mapped address. -/
def AddressSpace.AgreesWith (x : AddressSpace) (m : Memory) : Prop := ∀ a, x.mapped a = true → Memory.read m a = Memory.read x.bytes a

theorem SameArch.eq_withBytes {s t : State} (h : SameArch s t) : t = s.withBytes t.mem.bytes := by
  obtain ⟨regs, eip, flags, maps, bytes⟩ := s
  obtain ⟨regs', eip', flags', maps', bytes'⟩ := t
  obtain ⟨rfl, rfl, rfl, rfl, -⟩ := h
  rfl

theorem SameArch.agreesWith {s t : State} (h : SameArch s t) : s.mem.AgreesWith t.mem.bytes := fun a ha => (h.bytes a ha).symm

theorem AddressSpace.admits_withBytes (x : AddressSpace) (m : Memory) (k : Access) (a : Nat) : (x.withBytes m).admits k a = x.admits k a := rfl

/-- The check depends on the mappings alone. -/
theorem AddressSpace.check_withBytes (x : AddressSpace) (m : Memory) (k : Access) (a n : Nat) :
    (x.withBytes m).check k a n = x.check k a n := by
  induction n generalizing a with
  | zero => rfl
  | succ n ih =>
    simp only [AddressSpace.check, AddressSpace.admits_withBytes, ih]
    rfl

theorem validate_withBytes (x : AddressSpace) (m : Memory) (ws : List MemWrite) : validate (x.withBytes m) ws = validate x ws := by
  induction ws with
  | nil => rfl
  | cons w ws ih => simp only [validate, AddressSpace.check_withBytes, ih]

section
variable {x : AddressSpace} {m : Memory} (h : x.AgreesWith m)
include h

theorem memRead_withBytes (w : Width) (a : Word) : memRead (x.withBytes m) w a = memRead x w a := by
  simp only [memRead, AddressSpace.check_withBytes]
  cases hc : x.check .read a.toNat w.bytes with
  | some f => rfl
  | none =>
    have hadm := AddressSpace.check_eq_none.1 hc
    have hbytes : Memory.readLE m a.toNat w.bytes = Memory.readLE x.bytes a.toNat w.bytes :=
      Memory.readLE_congr fun j hj => h _ (AddressSpace.mapped_of_admits (hadm j hj))
    exact congrArg (fun v => Except.ok (BitVec.ofNat w.bits v)) hbytes

theorem fetchRun_withBytes (n a : Nat) : fetchRun (x.withBytes m) n a = fetchRun x n a := by
  induction n generalizing a with
  | zero => rfl
  | succ n ih =>
    simp only [fetchRun, AddressSpace.admits_withBytes, ih]
    split
    · exact congrArg (· :: _) (h a (AddressSpace.mapped_of_admits ‹_›))
    · rfl

end

/-! ## Handlers -/

/-- The handler's answer depends on no byte that no mapping holds. -/
def Handler.IgnoresUnmapped (h : Handler) : Prop := ∀ s m, s.mem.AgreesWith m → h (s.withBytes m) = h s

theorem except_bind_congr {α β : Type} {x y : Except Fault α} {f g : α → Except Fault β} (hx : x = y) (hf : ∀ a, f a = g a) :
    (x >>= f) = (y >>= g) := by
  rw [hx, funext hf]

section
variable {s : State} {m : Memory} (h : s.mem.AgreesWith m)
include h

theorem readPlace_withBytes {w : Width} (p : Place w) : readPlace (s.withBytes m) p = readPlace s p := by
  cases p with
  | reg v => rfl
  | mem e => exact memRead_withBytes h w _

theorem readOperand_withBytes {w : Width} (o : Operand w) : readOperand (s.withBytes m) o = readOperand s o := by
  cases o with
  | place p => exact readPlace_withBytes h p
  | imm v => rfl

end

/-! A handler is a chain of reads, then an answer from what was read and the rest of the state: each read is looked at here, and the answer is
the same by computation. -/

theorem ignoresUnmapped_of_readPlace {w : Width} {p : Place w} {k : BitVec w.bits → Handler} (hk : ∀ a, (k a).IgnoresUnmapped) :
    Handler.IgnoresUnmapped fun s n => readPlace s p >>= fun a => k a s n := fun _ m h =>
  funext fun n => except_bind_congr (readPlace_withBytes h p) fun a => congrFun (hk a _ m h) n

theorem ignoresUnmapped_of_readOperand {w : Width} {o : Operand w} {k : BitVec w.bits → Handler} (hk : ∀ a, (k a).IgnoresUnmapped) :
    Handler.IgnoresUnmapped fun s n => readOperand s o >>= fun a => k a s n := fun _ m h =>
  funext fun n => except_bind_congr (readOperand_withBytes h o) fun a => congrFun (hk a _ m h) n

theorem ignoresUnmapped_of_memRead {w : Width} {r : Reg} {k : BitVec w.bits → Handler} (hk : ∀ a, (k a).IgnoresUnmapped) :
    Handler.IgnoresUnmapped fun s n => memRead s.mem w (s.regs.get r) >>= fun a => k a s n := fun _ m h =>
  funext fun n => except_bind_congr (memRead_withBytes h w _) fun a => congrFun (hk a _ m h) n

section
variable {w v : Width} {d : Place w}

theorem binary_ignoresUnmapped {f : BitVec w.bits → BitVec w.bits → Flags → BitVec w.bits × List (Flag × Bool)} {src : Operand w} :
    (binary f d src).IgnoresUnmapped :=
  ignoresUnmapped_of_readPlace fun _ => ignoresUnmapped_of_readOperand fun _ _ _ _ => rfl

theorem compare_ignoresUnmapped {f : BitVec w.bits → BitVec w.bits → List (Flag × Bool)} {src : Operand w} :
    (compare f d src).IgnoresUnmapped :=
  ignoresUnmapped_of_readPlace fun _ => ignoresUnmapped_of_readOperand fun _ _ _ _ => rfl

theorem unary_ignoresUnmapped {f : BitVec w.bits → BitVec w.bits × List (Flag × Bool)} : (unary f d).IgnoresUnmapped :=
  ignoresUnmapped_of_readPlace fun _ _ _ _ => rfl

theorem shiftBy_ignoresUnmapped {m : Mnemonic} {f : BitVec w.bits → Nat → Flags → (Flag → Bool) → Shifted w} {count : Operand .w8} :
    (shiftBy m f d count).IgnoresUnmapped :=
  ignoresUnmapped_of_readPlace fun _ => ignoresUnmapped_of_readOperand fun _ _ _ _ => rfl

theorem bitModify_ignoresUnmapped {f : BitVec w.bits → BitVec w.bits → BitVec w.bits} {idx : Operand v} :
    (bitModify f d idx).IgnoresUnmapped :=
  ignoresUnmapped_of_readPlace fun _ => ignoresUnmapped_of_readOperand fun _ _ _ _ => rfl

theorem btH_ignoresUnmapped {idx : Operand v} : (btH d idx).IgnoresUnmapped :=
  ignoresUnmapped_of_readPlace fun _ => ignoresUnmapped_of_readOperand fun _ _ _ _ => rfl

theorem scan_ignoresUnmapped {f : BitVec w.bits → Option Nat} {src : Operand w} : (scan f d src).IgnoresUnmapped :=
  ignoresUnmapped_of_readOperand fun _ _ _ _ => rfl

theorem movH_ignoresUnmapped {src : Operand w} : (movH d src).IgnoresUnmapped := ignoresUnmapped_of_readOperand fun _ _ _ _ => rfl

theorem movzxH_ignoresUnmapped {src : Place v} : (movzxH d src).IgnoresUnmapped := ignoresUnmapped_of_readPlace fun _ _ _ _ => rfl

theorem movsxH_ignoresUnmapped {src : Place v} : (movsxH d src).IgnoresUnmapped := ignoresUnmapped_of_readPlace fun _ _ _ _ => rfl

theorem cmovH_ignoresUnmapped {cc : Cond} {src : Operand w} : (cmovH cc d src).IgnoresUnmapped :=
  ignoresUnmapped_of_readOperand fun _ _ _ _ => rfl

theorem mulH_ignoresUnmapped : (mulH d).IgnoresUnmapped := ignoresUnmapped_of_readPlace fun _ _ _ _ => rfl

theorem divH_ignoresUnmapped : (divH d).IgnoresUnmapped := ignoresUnmapped_of_readPlace fun _ _ _ _ => rfl

theorem idivH_ignoresUnmapped : (idivH d).IgnoresUnmapped := ignoresUnmapped_of_readPlace fun _ _ _ _ => rfl

theorem cmpsH_ignoresUnmapped : (cmpsH w).IgnoresUnmapped :=
  ignoresUnmapped_of_memRead fun _ => ignoresUnmapped_of_memRead fun _ _ _ _ => rfl

end

/-! ## Operand lists: a handler for its own shape is enough, since the others get `noH` -/

section
variable {o : Operands}

theorem noH_ignoresUnmapped : noH.IgnoresUnmapped := fun _ _ _ => rfl

theorem onTwo_ignoresUnmapped {f : {w : Width} → Place w → Operand w → Handler}
    (h : ∀ {w : Width} (d : Place w) (src : Operand w), (f d src).IgnoresUnmapped) : (onTwo o f).IgnoresUnmapped := by
  cases o with
  | two d src => exact h d src
  | _ => exact noH_ignoresUnmapped

theorem onOne_ignoresUnmapped {f : {w : Width} → Place w → Handler} (h : ∀ {w : Width} (d : Place w), (f d).IgnoresUnmapped) :
    (onOne o f).IgnoresUnmapped := by
  cases o with
  | one d => exact h d
  | _ => exact noH_ignoresUnmapped

theorem onByte_ignoresUnmapped {f : {w : Width} → Place w → Operand .w8 → Handler}
    (h : ∀ {w : Width} (d : Place w) (src : Operand .w8), (f d src).IgnoresUnmapped) : (onByte o f).IgnoresUnmapped := by
  cases o with
  | byteSrc d src => exact h d src
  | _ => exact noH_ignoresUnmapped

theorem onBit_ignoresUnmapped {f : {w v : Width} → Place w → Operand v → Handler}
    (h : ∀ {w v : Width} (d : Place w) (src : Operand v), (f d src).IgnoresUnmapped) : (onBit o f).IgnoresUnmapped := by
  cases o with
  | two d src => exact h d src
  | byteSrc d src => exact h d src
  | _ => exact noH_ignoresUnmapped

theorem onWiden_ignoresUnmapped {f : {w v : Width} → Place w → Place v → Handler}
    (h : ∀ {w v : Width} (d : Place w) (src : Place v), (f d src).IgnoresUnmapped) : (onWiden o f).IgnoresUnmapped := by
  cases o with
  | widen d src => exact h d src
  | _ => exact noH_ignoresUnmapped

theorem onImm_ignoresUnmapped {f : Byte → Handler} (h : ∀ v, (f v).IgnoresUnmapped) : (onImm o f).IgnoresUnmapped := by
  unfold onImm
  split
  · exact h _
  · exact noH_ignoresUnmapped

theorem onTarget_ignoresUnmapped {f : Word → Handler} (h : ∀ disp, (f disp).IgnoresUnmapped) : (onTarget o f).IgnoresUnmapped := by
  unfold onTarget
  split
  · exact h _
  · exact noH_ignoresUnmapped

/-- A jump or call: only the one through an r/m operand reads. -/
theorem onJump_ignoresUnmapped {f : Word → Handler} {g : Place .w32 → Handler} (hf : ∀ disp, (f disp).IgnoresUnmapped)
    (hg : ∀ p, (g p).IgnoresUnmapped) : (onJump o f g).IgnoresUnmapped := by
  unfold onJump
  split
  · exact hf _
  · exact hg _
  · exact noH_ignoresUnmapped

theorem onImul_ignoresUnmapped : (onImul o).IgnoresUnmapped := by
  cases o with
  | one src => exact ignoresUnmapped_of_readPlace fun _ _ _ _ => rfl
  | two d src => exact ignoresUnmapped_of_readPlace fun _ => ignoresUnmapped_of_readOperand fun _ _ _ _ => rfl
  | three d src imm => exact ignoresUnmapped_of_readPlace fun _ => ignoresUnmapped_of_readOperand fun _ _ _ _ => rfl
  | _ => exact noH_ignoresUnmapped

theorem onBswap_ignoresUnmapped : (onBswap o).IgnoresUnmapped := by
  unfold onBswap
  split
  · exact unary_ignoresUnmapped
  · exact noH_ignoresUnmapped

/-- LEA computes an address and reads nothing there (R434). -/
theorem onLea_ignoresUnmapped : (onLea o).IgnoresUnmapped := by
  unfold onLea
  split
  · exact fun _ _ _ => rfl
  · exact noH_ignoresUnmapped

theorem onRet_ignoresUnmapped : (onRet o).IgnoresUnmapped := by
  unfold onRet
  split
  · exact ignoresUnmapped_of_memRead fun _ _ _ _ => rfl
  · exact ignoresUnmapped_of_memRead fun _ _ _ _ => rfl
  · exact noH_ignoresUnmapped

end

/-! ## Every mnemonic -/

theorem handlerFor_ignoresUnmapped (m : Mnemonic) (o : Operands) : (handlerFor m o).IgnoresUnmapped := by
  cases m
  case ADD | ADC | SUB | SBB | AND | OR | XOR => exact onTwo_ignoresUnmapped fun _ _ => binary_ignoresUnmapped
  case CMP | TEST => exact onTwo_ignoresUnmapped fun _ _ => compare_ignoresUnmapped
  case INC | DEC | NEG | NOT => exact onOne_ignoresUnmapped fun _ => unary_ignoresUnmapped
  case ROL | ROR | RCL | RCR | SHL | SHR | SAR => exact onByte_ignoresUnmapped fun _ _ => shiftBy_ignoresUnmapped
  case MUL => exact onOne_ignoresUnmapped fun _ => mulH_ignoresUnmapped
  case DIV => exact onOne_ignoresUnmapped fun _ => divH_ignoresUnmapped
  case IDIV => exact onOne_ignoresUnmapped fun _ => idivH_ignoresUnmapped
  case IMUL => exact onImul_ignoresUnmapped
  case MOV => exact onTwo_ignoresUnmapped fun _ _ => movH_ignoresUnmapped
  case LEA => exact onLea_ignoresUnmapped
  case MOVZX => exact onWiden_ignoresUnmapped fun _ _ => movzxH_ignoresUnmapped
  case MOVSX => exact onWiden_ignoresUnmapped fun _ _ => movsxH_ignoresUnmapped
  case CMPSB | CMPSW | CMPSD => exact cmpsH_ignoresUnmapped
  case CBW | CWDE | CWD | CDQ | CLC | STC | CMC | CLD | STD => exact fun _ _ _ => rfl
  case AAM | AAD => exact onImm_ignoresUnmapped fun _ _ _ _ => rfl
  case CALL | JMP => exact onJump_ignoresUnmapped (fun _ _ _ _ => rfl) fun _ => ignoresUnmapped_of_readPlace fun _ _ _ _ => rfl
  case RET => exact onRet_ignoresUnmapped
  case JO | JNO | JB | JAE | JE | JNE | JBE | JA | JS | JNS | JP | JNP | JL | JGE | JLE | JG =>
    exact onTarget_ignoresUnmapped fun _ _ _ _ => rfl
  case CMOVO | CMOVNO | CMOVB | CMOVAE | CMOVE | CMOVNE | CMOVBE | CMOVA | CMOVS | CMOVNS | CMOVP | CMOVNP | CMOVL | CMOVGE | CMOVLE
      | CMOVG =>
    exact onTwo_ignoresUnmapped fun _ _ => cmovH_ignoresUnmapped
  case BSF | BSR => exact onTwo_ignoresUnmapped fun _ _ => scan_ignoresUnmapped
  case BSWAP => exact onBswap_ignoresUnmapped
  case BT => exact onBit_ignoresUnmapped fun _ _ => btH_ignoresUnmapped
  case BTS | BTR | BTC => exact onBit_ignoresUnmapped fun _ _ => bitModify_ignoresUnmapped

/-! ## The step -/

theorem Memory.read_writeLE_congr {m m' : Memory} {b : Nat} (h : Memory.read m b = Memory.read m' b) (a n v : Nat) :
    Memory.read (Memory.writeLE m a n v) b = Memory.read (Memory.writeLE m' a n v) b := by
  induction n generalizing m m' a v with
  | zero => exact h
  | succ n ih =>
    refine ih ?_ _ _
    rw [Memory.read_write, Memory.read_write, h]

theorem read_commitMems_congr {m m' : Memory} {b : Nat} (h : Memory.read m b = Memory.read m' b) (ws : List MemWrite) :
    Memory.read (commitMems m ws) b = Memory.read (commitMems m' ws) b := by
  induction ws generalizing m m' with
  | nil => exact h
  | cons w ws ih => exact ih (Memory.read_writeLE_congr h _ _ _)

section
variable {s : State} {m : Memory} (h : s.mem.AgreesWith m)
include h

theorem perform_withBytes (i : Instr) {hd : Handler} (hhd : hd.IgnoresUnmapped) :
    SameOutcome (perform i hd s) (perform i hd (s.withBytes m)) := by
  have hsame : hd (s.withBytes m) (nextIp i (s.withBytes m)) = hd s (nextIp i s) := congrFun (hhd s m h) _
  have hvalid (ws : List MemWrite) : validate (s.withBytes m).mem ws = validate s.mem ws := validate_withBytes _ _ _
  cases hh : hd s (nextIp i s) with
  | error f =>
    rw [perform_error hh, perform_error (hsame.trans hh)]
    rfl
  | ok e =>
    cases hv : validate s.mem e.mems with
    | some f =>
      rw [perform_fault.2 (.inr ⟨e, hh, hv⟩), perform_fault.2 (.inr ⟨e, hsame.trans hh, (hvalid _).trans hv⟩)]
      rfl
    | none =>
      rw [perform_ok hh hv, perform_ok (hsame.trans hh) ((hvalid _).trans hv)]
      exact ⟨rfl, rfl, rfl, rfl, fun a ha => read_commitMems_congr (h a ha).symm _⟩

theorem fetchDecode_withBytes (cfg : Config) : fetchDecode cfg (s.withBytes m) = fetchDecode cfg s := by
  unfold fetchDecode
  rw [show fetchRun (s.withBytes m).mem cfg.maxInsnLen (s.withBytes m).eip.toNat = fetchRun s.mem cfg.maxInsnLen s.eip.toNat from
    fetchRun_withBytes h _ _]
  rfl

theorem stepWith_withBytes (cfg : Config) : SameOutcome (stepWith cfg s) (stepWith cfg (s.withBytes m)) := by
  unfold stepWith
  rw [fetchDecode_withBytes h]
  cases fetchDecode cfg s with
  | error f => rfl
  | ok i =>
    simp only [exec_eq_perform]
    exact perform_withBytes h i (handlerFor_ignoresUnmapped _ _)

end

/-- Settles O56: a state that agrees with `s` is `s` with other bytes where no mapping is. -/
theorem unmappedBytesDoNotMatter : Obligations.UnmappedBytesDoNotMatter := by
  intro s t hst
  rw [hst.eq_withBytes]
  exact stepWith_withBytes hst.agreesWith Config.std

end Sys2Proof.Machine
end

section
/-! The decoder's stages, said once (30_encoding.md R117): the prefixes that may stand together, the opcode and the rows that have it, and what
decoding gives once a row is selected or none is. -/

namespace Sys2Proof

/-! ## Prefixes -/

/-- The three kinds of prefixes, of which an instruction has at most one each (R107). -/
def Prefix.kind : Prefix → Fin 3
  | .opsize => 0
  | .lock => 1
  | .seg _ => 2

theorem Prefix.clash_iff (p q : Prefix) : p.clash q = true ↔ p.kind = q.kind := by
  cases p <;> cases q <;> simp [Prefix.clash, Prefix.kind]

theorem Prefix.kind_eq_zero_iff (p : Prefix) : p.kind = 0 ↔ p = .opsize := by
  cases p <;> simp [Prefix.kind]

theorem Prefixes.wf_iff (p : Prefixes) : p.wf = true ↔ (p.map Prefix.kind).Nodup := by
  induction p with
  | nil => simp [Prefixes.wf]
  | cons q p ih =>
    simp only [Prefixes.wf, Bool.and_eq_true, ih, List.map_cons, List.nodup_cons, Bool.not_eq_true', ← Bool.not_eq_true, List.any_eq_true,
      Prefix.clash_iff, List.mem_map, eq_comm (a := q.kind)]

theorem any_clash_iff (acc : Prefixes) (q : Prefix) : (acc.any fun p => p.clash q) = true ↔ q.kind ∈ acc.map Prefix.kind := by
  simp [Prefix.clash_iff]

/-- One more may follow the prefixes before it exactly where it clashes with none of them. -/
theorem Prefixes.wf_concat_iff (acc : Prefixes) (q : Prefix) :
    Prefixes.wf (acc ++ [q]) = true ↔ acc.wf = true ∧ (acc.any fun p => p.clash q) = false := by
  rw [← Bool.not_eq_true, any_clash_iff, Prefixes.wf_iff, Prefixes.wf_iff, List.map_append, List.map_singleton, ← List.concat_eq_append,
    List.nodup_concat, and_comm]

theorem Prefixes.wf_of_append {p q : Prefixes} (h : Prefixes.wf (p ++ q) = true) : p.wf = true := by
  rw [Prefixes.wf_iff, List.map_append] at h
  exact (Prefixes.wf_iff p).2 h.of_append_left

/-- Prefixes that may stand together are read as they stand (R102 to R107). -/
theorem readPrefixes_append (acc p : Prefixes) (bs : List Byte) (h : Prefixes.wf (acc ++ p) = true) :
    readPrefixes acc (p.map Prefix.byte ++ bs) = readPrefixes (acc ++ p) bs := by
  induction p generalizing acc with
  | nil => simp
  | cons q p ih =>
    rw [List.append_cons] at h ⊢
    obtain ⟨-, hq⟩ := (Prefixes.wf_concat_iff acc q).1 (Prefixes.wf_of_append h)
    rw [← ih _ h]
    simp [readPrefixes, hq]

theorem Prefixes.length_le {p : Prefixes} (h : p.wf = true) : p.length ≤ 3 := by
  simpa using ((Prefixes.wf_iff p).1 h).length_le_card

/-- Without `66` there are at most two prefixes. -/
theorem Prefixes.length_le_of_not_opsize {p : Prefixes} (h : p.wf = true) (ho : p.contains .opsize = false) : p.length ≤ 2 := by
  have h0 : (0 : Fin 3) ∉ p.map Prefix.kind := by
    simpa [Prefix.kind_eq_zero_iff] using ho
  simpa [Nat.lt_succ_iff] using (List.nodup_cons.2 ⟨h0, (Prefixes.wf_iff p).1 h⟩).length_le_card

/-! ## The opcode -/

/-- The last opcode byte of a row, with the register number of a `+r` row (R108). -/
def Row.opcodeByte (r : Row) (k : BitVec 3) : Byte := if r.mask = 0xF8#8 then r.code ||| k.setWidth 8 else r.code

theorem opcodeBytes_eq (r : Row) (k : BitVec 3) : opcodeBytes r k = if r.escape then [0x0F#8, r.opcodeByte k] else [r.opcodeByte k] := rfl

theorem mask_eq (f : Form) : f.row.mask = 0xFF#8 ∨ f.row.mask = 0xF8#8 := by
  cases f <;> decide

theorem byte_and_mask8 (b : Byte) : b &&& 0xFF#8 = b := by
  revert b; decide

theorem byte_and_mask5_or_rmOf (b : Byte) : b &&& 0xF8#8 ||| (rmOf b).setWidth 8 = b := by
  revert b; decide

/-- An opcode byte of a row is the row's code with the register number that the byte carries (R108). -/
theorem opcodeByte_of_mem_formsAt {f : Form} {escape : Bool} {b : Byte} (h : f ∈ formsAt escape b) :
    f.row.escape = escape ∧ f.row.opcodeByte (plusReg f b) = b := by
  obtain ⟨-, h⟩ := List.mem_filter.1 h
  simp only [Row.hasOpcode, Bool.and_eq_true, beq_iff_eq] at h
  obtain ⟨hescape, hcode⟩ := h
  refine ⟨hescape, ?_⟩
  rw [Row.opcodeByte, plusReg, ← hcode]
  obtain hmask | hmask := mask_eq f
  · simp [hmask, byte_and_mask8]
  · simp [hmask, byte_and_mask5_or_rmOf]

theorem formsAt_eq_nil {escape : Bool} {b : Byte} (h : ∀ f : Form, f.row.hasOpcode escape b = false) : formsAt escape b = [] :=
  List.filter_eq_nil_iff.2 fun f _ => by simp [h f]

/-- Whether the rows of an opcode have a ModR/M byte: all or none do. -/
def opcodeHasModrm (escape : Bool) (b : Byte) : Bool := (formsAt escape b).head?.any fun f => f.row.hasModrm

theorem hasModrm_of_mem_formsAt {f : Form} {escape : Bool} {b : Byte} (h : f ∈ formsAt escape b) :
    f.row.hasModrm = opcodeHasModrm escape b := by
  obtain ⟨hescape, hbyte⟩ := opcodeByte_of_mem_formsAt h
  have hall : ((formsAt f.row.escape (f.row.opcodeByte (plusReg f b))).all fun g => g.row.hasModrm == f.row.hasModrm) = true :=
    hasModrm_formsAt f _
  rw [hescape, hbyte] at hall
  unfold opcodeHasModrm
  cases hforms : formsAt escape b with
  | nil => simp [hforms] at h
  | cons f0 fs =>
    rw [hforms] at hall
    exact (beq_iff_eq.1 (List.all_eq_true.1 hall f0 (by simp))).symm

/-- What follows a ModR/M byte that selects a row. -/
def readOperands (f : Form) (p : Prefixes) (mb : Byte) (bs : List Byte) : Parsed Instr :=
  (readRm mb bs).andThen fun rm bs =>
    (readImm f.row.imm p bs).andThen fun v bs =>
      finish ⟨f, p, ⟨if f.row.modrm = .slashR then regOf mb else 0#3, some rm, v⟩⟩ bs

/-- What follows an opcode without a ModR/M byte that selects a row. -/
def readImmediate (f : Form) (p : Prefixes) (b : Byte) (bs : List Byte) : Parsed Instr :=
  (readImm f.row.imm p bs).andThen fun v bs => finish ⟨f, p, ⟨plusReg f b, none, v⟩⟩ bs

section
variable {tierG escape : Bool} {p : Prefixes} {b : Byte} {bs : List Byte}

theorem decodeOpcode_of_no_row (h : formsAt escape b = []) : decodeOpcode tierG p escape b bs = .refuse (opcodeVerdict escape b) bs := by
  simp only [decodeOpcode, h]

/-- Where the opcode has rows: the ModR/M byte if they have one, then the row selected, the verdict on it, and its operand fields. -/
theorem decodeOpcode_of_rows (h : formsAt escape b ≠ []) :
    decodeOpcode tierG p escape b bs =
      if opcodeHasModrm escape b then
        (takeByte bs).andThen fun mb bs =>
          ((formsAt escape b).find? fun f => f.row.selected p mb).elim (.refuse (digitVerdict escape b (regOf mb)) bs) fun f =>
            .unlessRefused (f.row.verdict tierG p (modOf mb == 3#2)) bs (readOperands f p mb bs)
      else
        ((formsAt escape b).find? fun f => f.row.selected p 0#8).elim (.refuse .unsupportedInstruction bs) fun f =>
          .unlessRefused (f.row.verdict tierG p true) bs (readImmediate f p b bs) := by
  unfold decodeOpcode opcodeHasModrm
  cases hforms : formsAt escape b with
  | nil => exact absurd hforms h
  | cons f0 fs =>
    dsimp only [List.head?_cons, Option.any_some]
    refine ite_congr rfl (fun _ => ?_) fun _ => ?_
    · refine congrArg (Parsed.andThen _) (funext₂ fun mb bs => ?_)
      cases (f0 :: fs).find? fun f => f.row.selected p mb <;> rfl
    · cases (f0 :: fs).find? fun f => f.row.selected p 0#8 <;> rfl

/-- A ModR/M digit that no row of the opcode has. -/
theorem decodeOpcode_of_no_digit {mb : Byte} (hm : opcodeHasModrm escape b = true)
    (h : (formsAt escape b).find? (fun f => f.row.selected p mb) = none) :
    decodeOpcode tierG p escape b (mb :: bs) = .refuse (digitVerdict escape b (regOf mb)) bs := by
  have hne : formsAt escape b ≠ [] := by
    intro hnil
    simp [opcodeHasModrm, hnil] at hm
  rw [decodeOpcode_of_rows hne, if_pos hm, takeByte_cons, Parsed.andThen, h, Option.elim]

/-- A row with a ModR/M byte is selected: the verdict on it where there is one, else its operands. -/
theorem decodeOpcode_of_modrm {f : Form} {mb : Byte} (hm : f.row.hasModrm = true)
    (h : (formsAt escape b).find? (fun f => f.row.selected p mb) = some f) :
    decodeOpcode tierG p escape b (mb :: bs) =
      .unlessRefused (f.row.verdict tierG p (modOf mb == 3#2)) bs (readOperands f p mb bs) := by
  have hf := List.mem_of_find?_eq_some h
  rw [decodeOpcode_of_rows (List.ne_nil_of_mem hf), if_pos ((hasModrm_of_mem_formsAt hf).symm.trans hm), takeByte_cons, Parsed.andThen, h,
    Option.elim]

/-- A row without a ModR/M byte is selected: the verdict on it where there is one, else its immediate. -/
theorem decodeOpcode_of_no_modrm {f : Form} (hm : f.row.hasModrm = false)
    (h : (formsAt escape b).find? (fun f => f.row.selected p 0#8) = some f) :
    decodeOpcode tierG p escape b bs = .unlessRefused (f.row.verdict tierG p true) bs (readImmediate f p b bs) := by
  have hf := List.mem_of_find?_eq_some h
  rw [decodeOpcode_of_rows (List.ne_nil_of_mem hf), if_neg (by simp [← hasModrm_of_mem_formsAt hf, hm]), h, Option.elim]

end

/-! ## From the first byte to the opcode -/

/-- The decoder after prefixes that may stand together, at a byte that is not one more of them. -/
theorem decodeWith_prefixes {tierG : Bool} {p : Prefixes} (hp : p.wf = true) {b : Byte} (hr : refusedPrefix b = false) (hb : prefixOf b = none)
    (bs : List Byte) :
    decodeWith tierG (p.map Prefix.byte ++ b :: bs) =
      if b = 0x0F#8 then (takeByte bs).andThen fun b2 bs => decodeOpcode tierG p true b2 bs else decodeOpcode tierG p false b bs := by
  rw [decodeWith, readPrefixes_append [] p _ hp]
  simp [readPrefixes, hr, hb, Parsed.andThen]

/-- The decoder on what the encoder wrote, up to the opcode. -/
theorem decodeWith_encode (tierG : Bool) (i : Instr) (rest : List Byte) (hp : i.prefixes.wf = true) :
    decodeWith tierG (encode i ++ rest) =
      decodeOpcode tierG i.prefixes i.form.row.escape (i.form.row.opcodeByte i.raw.reg)
        (modrmBytes i.form.row i.raw ++ (immBytes i.raw.imm ++ rest)) := by
  obtain ⟨-, hbyte⟩ := mem_formsAt i.form i.raw.reg
  simp only [encode, List.append_assoc, opcodeBytes_eq]
  cases hescape : i.form.row.escape with
  | true => exact decodeWith_prefixes hp rfl rfl _
  | false =>
    obtain ⟨hr, hb, hne⟩ := hbyte hescape
    exact (decodeWith_prefixes hp hr (Option.isNone_iff_eq_none.1 hb) _).trans (if_neg hne)

end Sys2Proof
end

section
/-! Decoding gives back what was encoded (30_encoding.md R100 to R120): the row that is selected is the one the encoder wrote from, and each operand
field is read back; and an instruction is at most 13 bytes long. -/

namespace Sys2Proof

/-! ## Parts -/

theorem onZ_imm (reg : BitVec 3) (rm : Option (RM (BitVec 3))) (v : ImmZ) (k : ImmZ → Option Instr) :
    Raw.onZ ⟨reg, rm, v.imm⟩ k = k v := by
  cases v <;> rfl

/-- An instruction is put together from its parts. -/
theorem build_parts (i : Instr) : i.parts.build = some i := by
  cases i <;>
    simp only [Instr.parts, Parts.build, Raw.onRm, Raw.onMem, Raw.onB, Raw.onW, Raw.onD, onZ_imm, Laws.Parts.rm_map,
      Laws.Parts.rm_map8, Laws.Parts.reg_of_num, Laws.Parts.reg8_of_num]

theorem finish_parts (i : Instr) (bs : List Byte) : finish i.parts bs = .got i bs := by
  simp only [finish, build_parts]

/-- The r/m operand is memory. -/
def isMem : Option (RM (BitVec 3)) → Bool
  | some (.mem _) => true
  | _ => false

theorem isMem_iff {rm : Option (RM (BitVec 3))} : isMem rm = true ↔ ∃ m, rm = some (.mem m) := by
  rcases rm with _ | _ | _ <;> simp [isMem]

theorem lockOk_iff (r : Row) (p : Prefixes) (rm : Option (RM (BitVec 3))) :
    lockOk r p rm = true ↔ (p.contains .lock = true → r.lock = true ∧ isMem rm = true) := by
  rcases rm with _ | _ | _ <;> simp [lockOk, isMem, ← imp_iff_not_or]

/-- A selected row is not refused exactly where `66`, LOCK and a register may stand as they do. -/
theorem verdict_eq_none_iff (r : Row) (p : Prefixes) (rm : Option (RM (BitVec 3))) :
    r.verdict true p (!isMem rm) = none ↔
      (r.prefix66 = .forbidden → p.contains .opsize = false) ∧ lockOk r p rm = true ∧ (r.memOnly = true → isMem rm = true) := by
  rw [lockOk_iff]
  unfold Row.verdict
  split_ifs <;> grind

theorem opsizeOk_iff (r : Row) (p : Prefixes) :
    opsizeOk r p = true ↔
      (r.prefix66 = .forbidden → p.contains .opsize = false) ∧ (r.prefix66 = .required → p.contains .opsize = true) := by
  unfold opsizeOk
  cases r.prefix66 <;> simp

/-- The ModR/M byte that the encoder wrote for an r/m operand, and what the decoder reads from it. -/
theorem rmBytes_append (reg : BitVec 3) (m : RM (BitVec 3)) (bs : List Byte) :
    ∃ mb l, rmBytes reg m ++ bs = mb :: l ∧ regOf mb = reg ∧ (modOf mb == 3#2) = !isMem (some m) ∧
      (rmOk (some m) = true → readRm mb l = .got m bs) := by
  obtain ⟨mb, l, hbytes, hreg, hmod⟩ := rmBytes_head reg m
  refine ⟨mb, l ++ bs, by simp [hbytes], hreg, by rw [hmod]; cases m <;> rfl, fun hok => ?_⟩
  obtain ⟨mb', l', hbytes', hread⟩ := readRm_rmBytes reg m bs hok
  rw [hbytes, List.cons_append, List.cons.injEq] at hbytes'
  rw [hbytes'.1, hbytes'.2, hread]

theorem regField_regField (r : Row) (k : BitVec 3) : r.regField (r.regField k) = r.regField k := by
  unfold Row.regField
  cases r.modrm <;> rfl

theorem mask_of_hasModrm {f : Form} : f.row.hasModrm = true → f.row.mask ≠ 0xF8#8 := by
  cases f <;> decide

theorem hasModrm_of_memOnly {f : Form} : f.row.memOnly = true → f.row.hasModrm = true := by
  cases f <;> decide

theorem isMem_of_memOnly (i : Instr) (h : i.form.row.memOnly = true) : isMem i.raw.rm = true := by
  have hsome := (raw_rm_isSome i).trans (hasModrm_of_memOnly h)
  have hreg := raw_memOnly i h
  rcases hrm : i.raw.rm with _ | k | m
  · simp [hrm] at hsome
  · exact absurd hrm (hreg k)
  · rfl

/-- The verdict on the row of a well-formed instruction. -/
theorem verdict_of_wf {i : Instr} (hopsize : opsizeOk i.form.row i.prefixes = true) (hlock : lockOk i.form.row i.prefixes i.raw.rm = true) :
    i.form.row.verdict true i.prefixes (!isMem i.raw.rm) = none :=
  (verdict_eq_none_iff _ _ _).2 ⟨((opsizeOk_iff _ _).1 hopsize).1, hlock, isMem_of_memOnly i⟩

/-- The `reg` field that the decoder keeps is the one the encoder wrote. -/
theorem reg_of_regField (i : Instr) (hm : i.form.row.hasModrm = true) :
    (if i.form.row.modrm = .slashR then i.form.row.regField i.raw.reg else 0#3) = i.raw.reg := by
  split
  case isTrue h => simp only [Row.regField, h]
  case isFalse h => exact (raw_reg i h (mask_of_hasModrm hm)).symm

theorem rmOf_opcodeByte {f : Form} (h : f.row.mask = 0xF8#8) (k : BitVec 3) : rmOf (f.row.opcodeByte k) = k := by
  rw [Row.opcodeByte, if_pos h]
  cases f <;> first | (cases h; done) | (revert k; decide)

theorem modrm_of_not_hasModrm {r : Row} (h : r.hasModrm = false) : r.modrm = .none := by
  simpa [Row.hasModrm] using h

/-- The register number that the decoder keeps of an opcode without ModR/M is the one the encoder wrote. -/
theorem plusReg_opcodeByte (i : Instr) (hm : i.form.row.hasModrm = false) :
    plusReg i.form (i.form.row.opcodeByte i.raw.reg) = i.raw.reg := by
  unfold plusReg
  split
  case isTrue h => exact rmOf_opcodeByte h _
  case isFalse h => exact (raw_reg i (by simp [modrm_of_not_hasModrm hm]) h).symm

/-! ## Decoding what was encoded -/

theorem find_opcodeByte (f : Form) (k : BitVec 3) (p : Prefixes) (mb : Byte) (hp : opsizeOk f.row p = true)
    (hm : f.row.regField (regOf mb) = regOf mb) :
    (formsAt f.row.escape (f.row.opcodeByte k)).find? (fun h => h.row.selected p mb) = some f :=
  find_selected f k p mb hp hm

section
variable (i : Instr) (rest : List Byte)

theorem decode_encode_of_modrm (hwf : i.wf = true) (hm : i.form.row.hasModrm = true) : decode (encode i ++ rest) = .got i rest := by
  simp only [Instr.wf, Bool.and_eq_true] at hwf
  obtain ⟨⟨⟨⟨hp, hopsize⟩, hlock⟩, hrmOk⟩, himm⟩ := hwf
  obtain ⟨m, hrm⟩ := Option.isSome_iff_exists.1 ((raw_rm_isSome i).trans hm)
  obtain ⟨mb, l, hbytes, hreg, hmod, hread⟩ := rmBytes_append (i.form.row.regField i.raw.reg) m (immBytes i.raw.imm ++ rest)
  have hverdict := verdict_of_wf hopsize hlock
  rw [hrm, ← hmod] at hverdict
  have hselect := find_opcodeByte i.form i.raw.reg i.prefixes mb hopsize (by rw [hreg, regField_regField])
  have hparts : ⟨i.form, i.prefixes, ⟨i.raw.reg, some m, i.raw.imm⟩⟩ = i.parts := by
    rw [← hrm]; rfl
  rw [decode, decodeWith_encode _ _ _ hp, modrmBytes, hrm]
  simp only [hbytes]
  rw [decodeOpcode_of_modrm hm hselect, Config.std, hverdict, Parsed.unlessRefused, readOperands, hread (hrm ▸ hrmOk), Parsed.andThen,
    readImm_immBytes _ _ _ _ himm, Parsed.andThen, hreg, reg_of_regField i hm, hparts, finish_parts]

theorem decode_encode_of_no_modrm (hwf : i.wf = true) (hm : i.form.row.hasModrm = false) : decode (encode i ++ rest) = .got i rest := by
  simp only [Instr.wf, Bool.and_eq_true] at hwf
  obtain ⟨⟨⟨⟨hp, hopsize⟩, hlock⟩, -⟩, himm⟩ := hwf
  have hrm : i.raw.rm = none := Option.not_isSome_iff_eq_none.1 (by simp [raw_rm_isSome, hm])
  have hverdict : i.form.row.verdict true i.prefixes true = none := by
    simpa [hrm, isMem] using verdict_of_wf hopsize hlock
  have hselect := find_opcodeByte i.form i.raw.reg i.prefixes 0#8 hopsize (by simp [Row.regField, modrm_of_not_hasModrm hm])
  have hparts : ⟨i.form, i.prefixes, ⟨i.raw.reg, none, i.raw.imm⟩⟩ = i.parts := by
    rw [← hrm]; rfl
  rw [decode, decodeWith_encode _ _ _ hp, modrmBytes, hrm]
  simp only [List.nil_append]
  rw [decodeOpcode_of_no_modrm hm hselect, Config.std, hverdict, Parsed.unlessRefused, readImmediate,
    readImm_immBytes _ _ _ _ himm, Parsed.andThen, plusReg_opcodeByte i hm, hparts, finish_parts]

end

/-! ## Lengths -/

/-- The number of bytes of an immediate. -/
def Imm.size : Imm → Nat
  | .none => 0
  | .b _ => 1
  | .w _ => 2
  | .d _ => 4

theorem length_immBytes (v : Imm) : (immBytes v).length = v.size := by
  cases v <;> rfl

theorem length_rmBytes_le (k : BitVec 3) (m : RM (BitVec 3)) : (rmBytes k m).length ≤ 6 := by
  rcases m with _ | m
  · simp [rmBytes]
  · cases m <;> simp [rmBytes, wordBytes]

theorem length_modrmBytes_le (i : Instr) : (modrmBytes i.form.row i.raw).length ≤ if i.form.row.hasModrm then 6 else 0 := by
  rw [← raw_rm_isSome, modrmBytes]
  cases i.raw.rm with
  | none => simp
  | some m => exact length_rmBytes_le _ m

theorem length_opcodeBytes (r : Row) (k : BitVec 3) : (opcodeBytes r k).length = if r.escape then 2 else 1 := by
  rw [opcodeBytes_eq]
  split <;> rfl

/-- The immediates of a row with a ModR/M byte: an `iz` only after an opcode of one byte. -/
theorem imm_of_hasModrm {f : Form} :
    f.row.hasModrm = true → f.row.imm = .none ∨ f.row.imm = .ib ∨ (f.row.imm = .iz ∧ f.row.escape = false) := by
  cases f <;> decide

/-- An immediate of four bytes beside a ModR/M byte is an `iz` without `66`, after an opcode of one byte. -/
theorem size_imm_le {i : Instr} (h : immOk i.form.row.imm i.prefixes i.raw.imm = true) :
    i.raw.imm.size ≤ 4 ∧
      (i.form.row.hasModrm = true → i.raw.imm.size ≤ 1 ∨
        (i.form.row.escape = false ∧ (i.raw.imm.size ≤ 2 ∨ i.prefixes.contains .opsize = false))) := by
  refine ⟨by cases i.raw.imm <;> simp [Imm.size], fun hm => ?_⟩
  obtain hk | hk | ⟨hk, he⟩ := imm_of_hasModrm hm
  · left
    revert h; rw [hk]; cases i.raw.imm <;> simp [immOk, Imm.size]
  · left
    revert h; rw [hk]; cases i.raw.imm <;> simp [immOk, Imm.size]
  · right
    revert h; rw [hk]; cases i.raw.imm <;> simp [immOk, Imm.size, opWidth, he]

/-- The longest are an opcode byte, ModR/M with SIB and disp32, and a four-byte immediate, after LOCK and a segment override. -/
theorem length_encode_le {i : Instr} (hwf : i.wf = true) : (encode i).length ≤ 13 := by
  simp only [Instr.wf, Bool.and_eq_true] at hwf
  obtain ⟨⟨⟨⟨hp, -⟩, -⟩, -⟩, himm⟩ := hwf
  have hprefixes := Prefixes.length_le hp
  have hopcode := length_opcodeBytes i.form.row i.raw.reg
  have hmodrm := length_modrmBytes_le i
  obtain ⟨himm4, himm⟩ := size_imm_le himm
  simp only [encode, List.length_append, List.length_map, length_immBytes]
  cases hm : i.form.row.hasModrm with
  | false =>
    rw [hm, if_neg (by simp)] at hmodrm
    split at hopcode <;> omega
  | true =>
    rw [if_pos hm] at hmodrm
    obtain himm1 | ⟨hescape, himm⟩ := himm hm
    · split at hopcode <;> omega
    · rw [hescape, if_neg (by simp)] at hopcode
      obtain himm2 | hno66 := himm
      · omega
      · have hprefixes := Prefixes.length_le_of_not_opsize hp hno66
        omega

theorem length_encode_pos (i : Instr) : 1 ≤ (encode i).length := by
  simp only [encode, List.length_append, length_opcodeBytes]
  split <;> omega

/-- Settles O44: the decoder, on what the encoder wrote, selects the row it was written from and reads each field back. -/
theorem decodeOfEncodeIsIdentity : Obligations.DecodeOfEncodeIsIdentity := by
  intro i rest hwf
  refine ⟨?_, length_encode_pos i, length_encode_le hwf⟩
  cases hm : i.form.row.hasModrm with
  | true => exact decode_encode_of_modrm i rest hwf hm
  | false => exact decode_encode_of_no_modrm i rest hwf hm

/-- Settles O49: the words are short, and the decoder is run on each. -/
theorem decodedWordsFromTables : Obligations.DecodedWordsFromTables := by
  unfold Obligations.DecodedWordsFromTables
  decide

end Sys2Proof
end

section
/-! What is decoded is its own encoding (30_encoding.md R100 to R117): each reader read the bytes that the encoder gives its value, the row that was
selected is the instruction's row, and where no verdict fell the instruction is well formed. -/

namespace Sys2Proof

/-! ## What a reader read -/

theorem andThen_eq_got {α β : Type} {x : Parsed α} {k : α → List Byte → Parsed β} {b : β} {rest : List Byte} :
    x.andThen k = .got b rest ↔ ∃ a bs, x = .got a bs ∧ k a bs = .got b rest := by
  cases x <;> simp [Parsed.andThen]

theorem unlessRefused_eq_got {v : Option Reject} {bs rest : List Byte} {x : Parsed Instr} {i : Instr} :
    Parsed.unlessRefused v bs x = .got i rest ↔ v = none ∧ x = .got i rest := by
  cases v <;> simp [Parsed.unlessRefused]

theorem takeByte_eq_got {bs rest : List Byte} {b : Byte} : takeByte bs = .got b rest ↔ bs = b :: rest := by
  cases bs <;> simp [takeByte]

theorem halfBytes_append (b0 b1 : Byte) : halfBytes (b1 ++ b0) = [b0, b1] :=
  congrArg₂ (fun x y => [x, y]) BitVec.extractLsb'_append_eq_right BitVec.extractLsb'_append_eq_left

theorem wordBytes_append (b0 b1 b2 b3 : Byte) : wordBytes (b3 ++ b2 ++ b1 ++ b0) = [b0, b1, b2, b3] := by
  have h0 : (b3 ++ b2 ++ b1 ++ b0).extractLsb' 0 8 = b0 := BitVec.extractLsb'_append_eq_right
  have h1 : (b3 ++ b2 ++ b1 ++ b0).extractLsb' 8 8 = b1 :=
    (BitVec.extractLsb'_append_eq_of_le (by decide)).trans BitVec.extractLsb'_append_eq_right
  have h2 : (b3 ++ b2 ++ b1 ++ b0).extractLsb' 16 8 = b2 :=
    (BitVec.extractLsb'_append_eq_of_le (by decide)).trans <|
      (BitVec.extractLsb'_append_eq_of_le (by decide)).trans BitVec.extractLsb'_append_eq_right
  have h3 : (b3 ++ b2 ++ b1 ++ b0).extractLsb' 24 8 = b3 :=
    (BitVec.extractLsb'_append_eq_of_le (by decide)).trans <|
      (BitVec.extractLsb'_append_eq_of_le (by decide)).trans BitVec.extractLsb'_append_eq_left
  exact congr (congr (congrArg₂ (fun x y z w => [x, y, z, w]) h0 h1) h2) h3

theorem takeHalf_eq_got {bs rest : List Byte} {v : BitVec 16} (h : takeHalf bs = .got v rest) : bs = halfBytes v ++ rest := by
  match bs, h with
  | b0 :: b1 :: bs, h =>
    obtain ⟨rfl, rfl⟩ := Parsed.got.inj h
    rw [halfBytes_append]
    rfl

theorem takeWord_eq_got {bs rest : List Byte} {v : Word} (h : takeWord bs = .got v rest) : bs = wordBytes v ++ rest := by
  match bs, h with
  | b0 :: b1 :: b2 :: b3 :: bs, h =>
    obtain ⟨rfl, rfl⟩ := Parsed.got.inj h
    rw [wordBytes_append]
    rfl

/-- The prefixes that were read stand after those before, and may stand with them (R107). -/
theorem readPrefixes_eq_got {acc p : Prefixes} {bs rest : List Byte} (hacc : acc.wf = true) (h : readPrefixes acc bs = .got p rest) :
    p.wf = true ∧ acc.map Prefix.byte ++ bs = p.map Prefix.byte ++ rest := by
  induction bs generalizing acc with
  | nil => cases h
  | cons b bs ih =>
    unfold readPrefixes at h
    split at h
    · cases h
    · split at h
      · obtain ⟨rfl, rfl⟩ := Parsed.got.inj h
        exact ⟨hacc, rfl⟩
      · next q hq =>
        split at h
        · cases h
        · next hclash =>
          obtain ⟨hp, hbytes⟩ := ih ((Prefixes.wf_concat_iff acc q).2 ⟨hacc, by simpa using hclash⟩) h
          exact ⟨hp, by simpa [byte_of_prefixOf hq] using hbytes⟩

theorem modrmByte_of_fields {b : Byte} {m : BitVec 2} {k : BitVec 3} (hm : modOf b = m) (hk : rmOf b = k) : modrmByte m (regOf b) k = b := by
  rw [← hm, ← hk, modrmByte_fields]

theorem modOf_eq_two {b : Byte} : modOf b ≠ 0#2 → modOf b ≠ 1#2 → modOf b ≠ 3#2 → modOf b = 2#2 := by
  revert b; decide

theorem ofNum_eq_esp (k : BitVec 3) : Reg.ofNum k = .esp ↔ k = 4#3 := by
  revert k; decide

theorem ofNum_eq_ebp (k : BitVec 3) : Reg.ofNum k = .ebp ↔ k = 5#3 := by
  revert k; decide

theorem sibOf_index_ne_esp (b : Byte) : (sibOf b).index ≠ some .esp := by
  revert b; decide

/-- The SIB byte of what was read of it. -/
theorem modrmByte_sibOf {b : Byte} {k : BitVec 3} (hk : rmOf b = k) : modrmByte (sibOf b).scale.num (sibOf b).indexNum k = b := by
  subst hk; revert b; decide

/-- What was read after a SIB byte is what the encoder writes for it (R110 to R112). -/
theorem readRm_sib_eq_got {mb : Byte} {bs rest : List Byte} {m : RM (BitVec 3)} (h3 : modOf mb ≠ 3#2) (h4 : rmOf mb = 4#3)
    (h : readRm mb bs = .got m rest) : rmOk (some m) = true ∧ mb :: bs = rmBytes (regOf mb) m ++ rest := by
  rw [readRm, if_neg h3, if_pos h4] at h
  obtain ⟨sb, bs, hsb, h⟩ := andThen_eq_got.1 h
  rw [takeByte_eq_got.1 hsb]
  have hindex := sibOf_index_ne_esp sb
  by_cases h0 : modOf mb = 0#2
  · rw [if_pos h0] at h
    by_cases h5 : rmOf sb = 5#3
    · rw [if_pos h5] at h
      obtain ⟨d, bs, hd, h⟩ := andThen_eq_got.1 h
      obtain ⟨rfl, rfl⟩ := Parsed.got.inj h
      simp [rmOk, Mem.wf, rmBytes, hindex, takeWord_eq_got hd, modrmByte_of_fields h0 h4, modrmByte_sibOf h5]
    · rw [if_neg h5] at h
      obtain ⟨rfl, rfl⟩ := Parsed.got.inj h
      simp [rmOk, Mem.wf, rmBytes, hindex, modrmByte_of_fields h0 h4, modrmByte_sibOf rfl, num_ofNum, ofNum_eq_ebp, h5]
  · rw [if_neg h0] at h
    by_cases h1 : modOf mb = 1#2
    · rw [if_pos h1] at h
      obtain ⟨d, bs, hd, h⟩ := andThen_eq_got.1 h
      obtain ⟨rfl, rfl⟩ := Parsed.got.inj h
      simp [rmOk, Mem.wf, rmBytes, hindex, takeByte_eq_got.1 hd, modrmByte_of_fields h1 h4, modrmByte_sibOf rfl, num_ofNum]
    · rw [if_neg h1] at h
      obtain ⟨d, bs, hd, h⟩ := andThen_eq_got.1 h
      obtain ⟨rfl, rfl⟩ := Parsed.got.inj h
      simp [rmOk, Mem.wf, rmBytes, hindex, takeWord_eq_got hd, modrmByte_of_fields (modOf_eq_two h0 h1 h3) h4, modrmByte_sibOf rfl,
        num_ofNum]

/-- What was read from a ModR/M byte on is what the encoder writes for it (R110 to R112). -/
theorem readRm_eq_got {mb : Byte} {bs rest : List Byte} {m : RM (BitVec 3)} (h : readRm mb bs = .got m rest) :
    rmOk (some m) = true ∧ mb :: bs = rmBytes (regOf mb) m ++ rest := by
  by_cases h3 : modOf mb = 3#2
  · rw [readRm, if_pos h3] at h
    obtain ⟨rfl, rfl⟩ := Parsed.got.inj h
    simp [rmOk, rmBytes, modrmByte_of_fields h3]
  by_cases h4 : rmOf mb = 4#3
  · exact readRm_sib_eq_got h3 h4 h
  rw [readRm, if_neg h3, if_neg h4] at h
  by_cases h0 : modOf mb = 0#2
  · rw [if_pos h0] at h
    by_cases h5 : rmOf mb = 5#3
    · rw [if_pos h5] at h
      obtain ⟨d, bs, hd, h⟩ := andThen_eq_got.1 h
      obtain ⟨rfl, rfl⟩ := Parsed.got.inj h
      simp [rmOk, Mem.wf, rmBytes, takeWord_eq_got hd, modrmByte_of_fields h0 h5]
    · rw [if_neg h5] at h
      obtain ⟨rfl, rfl⟩ := Parsed.got.inj h
      simp [rmOk, Mem.wf, rmBytes, modrmByte_of_fields h0 rfl, num_ofNum, ofNum_eq_esp, ofNum_eq_ebp, h4, h5]
  · rw [if_neg h0] at h
    by_cases h1 : modOf mb = 1#2
    · rw [if_pos h1] at h
      obtain ⟨d, bs, hd, h⟩ := andThen_eq_got.1 h
      obtain ⟨rfl, rfl⟩ := Parsed.got.inj h
      simp [rmOk, Mem.wf, rmBytes, takeByte_eq_got.1 hd, modrmByte_of_fields h1 rfl, num_ofNum, ofNum_eq_esp, h4]
    · rw [if_neg h1] at h
      obtain ⟨d, bs, hd, h⟩ := andThen_eq_got.1 h
      obtain ⟨rfl, rfl⟩ := Parsed.got.inj h
      simp [rmOk, Mem.wf, rmBytes, takeWord_eq_got hd, modrmByte_of_fields (modOf_eq_two h0 h1 h3) rfl, num_ofNum, ofNum_eq_esp, h4]

theorem readByte_eq_got {bs rest : List Byte} {v : Imm} (h : ((takeByte bs).andThen fun v bs => .got (Imm.b v) bs) = .got v rest) :
    ∃ b, v = .b b ∧ bs = immBytes v ++ rest := by
  obtain ⟨b, bs, hb, h⟩ := andThen_eq_got.1 h
  obtain ⟨rfl, rfl⟩ := Parsed.got.inj h
  exact ⟨b, rfl, takeByte_eq_got.1 hb⟩

theorem readHalf_eq_got {bs rest : List Byte} {v : Imm} (h : ((takeHalf bs).andThen fun v bs => .got (Imm.w v) bs) = .got v rest) :
    ∃ x, v = .w x ∧ bs = immBytes v ++ rest := by
  obtain ⟨x, bs, hx, h⟩ := andThen_eq_got.1 h
  obtain ⟨rfl, rfl⟩ := Parsed.got.inj h
  exact ⟨x, rfl, takeHalf_eq_got hx⟩

theorem readWord_eq_got {bs rest : List Byte} {v : Imm} (h : ((takeWord bs).andThen fun v bs => .got (Imm.d v) bs) = .got v rest) :
    ∃ x, v = .d x ∧ bs = immBytes v ++ rest := by
  obtain ⟨x, bs, hx, h⟩ := andThen_eq_got.1 h
  obtain ⟨rfl, rfl⟩ := Parsed.got.inj h
  exact ⟨x, rfl, takeWord_eq_got hx⟩

theorem opWidth_eq_w32 {p : Prefixes} (h : opWidth p ≠ .w16) : opWidth p = .w32 := by
  unfold opWidth at h ⊢
  split at h <;> simp_all

/-- The immediate that was read has the size its row gives it (R113). -/
theorem readImm_eq_got {k : ImmKind} {p : Prefixes} {bs rest : List Byte} {v : Imm} (h : readImm k p bs = .got v rest) :
    immOk k p v = true ∧ bs = immBytes v ++ rest := by
  cases k with
  | none =>
    obtain ⟨rfl, rfl⟩ := Parsed.got.inj h
    exact ⟨rfl, rfl⟩
  | ib | cb =>
    obtain ⟨_, rfl, hbs⟩ := readByte_eq_got h
    exact ⟨rfl, hbs⟩
  | iw =>
    obtain ⟨_, rfl, hbs⟩ := readHalf_eq_got h
    exact ⟨rfl, hbs⟩
  | cd | moffs =>
    obtain ⟨_, rfl, hbs⟩ := readWord_eq_got h
    exact ⟨rfl, hbs⟩
  | iz =>
    unfold readImm at h
    by_cases hw : opWidth p = .w16
    · obtain ⟨_, rfl, hbs⟩ := readHalf_eq_got ((if_pos hw).symm.trans h)
      exact ⟨beq_iff_eq.2 hw, hbs⟩
    · obtain ⟨_, rfl, hbs⟩ := readWord_eq_got ((if_neg hw).symm.trans h)
      exact ⟨beq_iff_eq.2 (opWidth_eq_w32 hw), hbs⟩

/-! ## The parts of what was put together -/

/-- The raw fields that a row has; the others are empty. -/
def Raw.fieldsOf (x : Raw) (r : Row) : Raw :=
  { reg := if r.modrm = .slashR ∨ r.mask = 0xF8#8 then x.reg else 0#3
    rm := if r.hasModrm then x.rm else none
    imm := if r.imm = .none then .none else x.imm }

/-- Every instruction that `o` gives has these parts. -/
def BuildsParts (y : Parts) (o : Option Instr) : Prop := ∀ i, o = some i → i.parts = y

theorem buildsParts_some (y : Parts) (i : Instr) : BuildsParts y (some i) ↔ i.parts = y := by
  simp [BuildsParts]

section Fields
variable {y : Parts} (raw : Raw)

theorem buildsParts_onRm (k : RM (BitVec 3) → Option Instr) :
    BuildsParts y (raw.onRm k) ↔ ∀ m, raw.rm = some m → BuildsParts y (k m) := by
  unfold Raw.onRm
  cases raw.rm <;> simp [BuildsParts]

theorem buildsParts_onMem (k : Mem → Option Instr) :
    BuildsParts y (raw.onMem k) ↔ ∀ m, raw.rm = some (.mem m) → BuildsParts y (k m) := by
  unfold Raw.onMem
  rcases raw.rm with _ | _ | _ <;> simp [BuildsParts]

theorem buildsParts_onB (k : Byte → Option Instr) : BuildsParts y (raw.onB k) ↔ ∀ v, raw.imm = .b v → BuildsParts y (k v) := by
  unfold Raw.onB
  cases raw.imm <;> simp [BuildsParts]

theorem buildsParts_onW (k : BitVec 16 → Option Instr) : BuildsParts y (raw.onW k) ↔ ∀ v, raw.imm = .w v → BuildsParts y (k v) := by
  unfold Raw.onW
  cases raw.imm <;> simp [BuildsParts]

theorem buildsParts_onD (k : Word → Option Instr) : BuildsParts y (raw.onD k) ↔ ∀ v, raw.imm = .d v → BuildsParts y (k v) := by
  unfold Raw.onD
  cases raw.imm <;> simp [BuildsParts]

theorem buildsParts_onZ (k : ImmZ → Option Instr) : BuildsParts y (raw.onZ k) ↔ ∀ v : ImmZ, raw.imm = v.imm → BuildsParts y (k v) := by
  unfold Raw.onZ
  constructor
  · rintro h (v | v) hv <;> simpa [hv, ImmZ.imm] using h
  · intro h
    split
    · exact h (.i16 _) ‹_›
    · exact h (.i32 _) ‹_›
    · simp [BuildsParts]

end Fields

theorem rm_map_ofNum (m : RM (BitVec 3)) : (m.map Reg.ofNum).map Reg.num = m := by
  cases m <;> simp [RM.map, num_ofNum]

theorem rm_map8_ofNum (m : RM (BitVec 3)) : (m.map Reg8.ofNum).map Reg8.num = m := by
  cases m <;> simp [RM.map, num8_ofNum]

/-- Each arm of `Parts.build` reads the fields of its row, and its constructor keeps them. -/
theorem buildsParts_build (x : Parts) : BuildsParts ⟨x.form, x.prefixes, x.raw.fieldsOf x.form.row⟩ x.build := by
  obtain ⟨f, p, raw⟩ := x
  cases f <;>
    simp +contextual [Parts.build, buildsParts_onRm, buildsParts_onMem, buildsParts_onB, buildsParts_onW, buildsParts_onD,
      buildsParts_onZ, buildsParts_some, Instr.parts, Raw.fieldsOf, Form.row, dataRow, Row.hasModrm, rm_map_ofNum, rm_map8_ofNum,
      num_ofNum, num8_ofNum]

/-! ## The selected row -/

theorem finish_eq_got {x : Parts} {bs rest : List Byte} {i : Instr} (h : finish x bs = .got i rest) :
    i.parts = ⟨x.form, x.prefixes, x.raw.fieldsOf x.form.row⟩ ∧ bs = rest := by
  unfold finish at h
  cases hx : x.build with
  | none => rw [hx] at h; cases h
  | some j =>
    rw [hx] at h
    obtain ⟨rfl, rfl⟩ := Parsed.got.inj h
    exact ⟨buildsParts_build x j hx, rfl⟩

theorem imm_none_of_immOk {p : Prefixes} {v : Imm} (h : immOk .none p v = true) : v = .none := by
  cases v <;> simp [immOk] at h ⊢

theorem fieldsOf_modrm {f : Form} {p : Prefixes} {m : RM (BitVec 3)} {v : Imm} (k : BitVec 3) (hm : f.row.hasModrm = true)
    (hv : immOk f.row.imm p v = true) :
    Raw.fieldsOf ⟨if f.row.modrm = .slashR then k else 0#3, some m, v⟩ f.row = ⟨if f.row.modrm = .slashR then k else 0#3, some m, v⟩ := by
  have himm : f.row.imm = .none → v = .none := fun h => imm_none_of_immOk (h ▸ hv)
  simp only [Raw.fieldsOf, hm, mask_of_hasModrm hm, if_true, or_false, Raw.mk.injEq, true_and]
  exact ⟨by split <;> rfl, by split <;> simp_all⟩

theorem fieldsOf_no_modrm {f : Form} {p : Prefixes} {v : Imm} (b : Byte) (hm : f.row.hasModrm = false) (hv : immOk f.row.imm p v = true) :
    Raw.fieldsOf ⟨plusReg f b, none, v⟩ f.row = ⟨plusReg f b, none, v⟩ := by
  have himm : f.row.imm = .none → v = .none := fun h => imm_none_of_immOk (h ▸ hv)
  simp only [Raw.fieldsOf, ite_self, Raw.mk.injEq, true_and]
  exact ⟨by unfold plusReg; split <;> simp_all [modrm_of_not_hasModrm hm], by split <;> simp_all⟩

section
variable {f : Form} {p : Prefixes} {bs rest : List Byte} {i : Instr}

theorem readOperands_eq_got {mb : Byte} (hm : f.row.hasModrm = true) (h : readOperands f p mb bs = .got i rest) :
    ∃ m v, i.parts = ⟨f, p, ⟨if f.row.modrm = .slashR then regOf mb else 0#3, some m, v⟩⟩ ∧ rmOk (some m) = true ∧
      immOk f.row.imm p v = true ∧ mb :: bs = rmBytes (regOf mb) m ++ (immBytes v ++ rest) := by
  obtain ⟨m, bs1, hrm, h⟩ := andThen_eq_got.1 h
  obtain ⟨v, bs2, himm, h⟩ := andThen_eq_got.1 h
  obtain ⟨hrmOk, hrmBytes⟩ := readRm_eq_got hrm
  obtain ⟨himmOk, himmBytes⟩ := readImm_eq_got himm
  obtain ⟨hparts, rfl⟩ := finish_eq_got h
  refine ⟨m, v, ?_, hrmOk, himmOk, by rw [hrmBytes, himmBytes]⟩
  rw [hparts, fieldsOf_modrm _ hm himmOk]

theorem readImmediate_eq_got {b : Byte} (hm : f.row.hasModrm = false) (h : readImmediate f p b bs = .got i rest) :
    ∃ v, i.parts = ⟨f, p, ⟨plusReg f b, none, v⟩⟩ ∧ immOk f.row.imm p v = true ∧ bs = immBytes v ++ rest := by
  obtain ⟨v, bs1, himm, h⟩ := andThen_eq_got.1 h
  obtain ⟨himmOk, himmBytes⟩ := readImm_eq_got himm
  obtain ⟨hparts, rfl⟩ := finish_eq_got h
  refine ⟨v, ?_, himmOk, himmBytes⟩
  rw [hparts, fieldsOf_no_modrm _ hm himmOk]

end

/-- A row that is selected has its digit in the ModR/M byte, and `66` where it wants it. -/
theorem selected_iff (r : Row) (p : Prefixes) (mb : Byte) :
    r.selected p mb = true ↔ r.regField (regOf mb) = regOf mb ∧ (r.prefix66 = .required → p.contains .opsize = true) := by
  unfold Row.selected Row.regField
  cases r.modrm <;> simp [← imp_iff_not_or]

theorem of_find_selected {f : Form} {p : Prefixes} {escape : Bool} {b mb : Byte}
    (h : (formsAt escape b).find? (fun f => f.row.selected p mb) = some f) :
    (f.row.escape = escape ∧ f.row.opcodeByte (plusReg f b) = b) ∧
      f.row.regField (regOf mb) = regOf mb ∧ (f.row.prefix66 = .required → p.contains .opsize = true) :=
  ⟨opcodeByte_of_mem_formsAt (List.mem_of_find?_eq_some h),
    (selected_iff _ _ _).1 (List.find?_some (p := fun f : Form => f.row.selected p mb) h)⟩

theorem regField_of_selected {r : Row} {mb : Byte} (hm : r.hasModrm = true) (h : r.regField (regOf mb) = regOf mb) :
    r.regField (if r.modrm = .slashR then regOf mb else 0#3) = regOf mb := by
  unfold Row.regField at h ⊢
  cases hr : r.modrm with
  | none => simp [Row.hasModrm, hr] at hm
  | slashR => rfl
  | digit d => rw [hr] at h; exact h

/-- What is decoded from an opcode on: a well-formed instruction, from the bytes that the encoder gives it. -/
structure DecodedFrom (p : Prefixes) (escape : Bool) (b : Byte) (bs rest : List Byte) (i : Instr) : Prop where
  prefixes : i.prefixes = p
  escape : i.form.row.escape = escape
  opcode : i.form.row.opcodeByte i.raw.reg = b
  bytes : bs = modrmBytes i.form.row i.raw ++ (immBytes i.raw.imm ++ rest)
  opsize : opsizeOk i.form.row p = true
  lock : lockOk i.form.row p i.raw.rm = true
  rm : rmOk i.raw.rm = true
  imm : immOk i.form.row.imm p i.raw.imm = true

section
variable {p : Prefixes} {escape : Bool} {b : Byte} {bs rest : List Byte} {i : Instr} {f : Form}

theorem decodedFrom_of_modrm {mb : Byte} (hm : f.row.hasModrm = true)
    (hfind : (formsAt escape b).find? (fun f => f.row.selected p mb) = some f)
    (hverdict : f.row.verdict true p (modOf mb == 3#2) = none) (h : readOperands f p mb bs = .got i rest) :
    DecodedFrom p escape b (mb :: bs) rest i := by
  obtain ⟨m, v, hparts, hrm, himm, hbytes⟩ := readOperands_eq_got hm h
  obtain ⟨⟨hescape, hopcode⟩, hdigit, hrequired⟩ := of_find_selected hfind
  obtain ⟨mb', l, hhead, -, hmod, -⟩ := rmBytes_append (regOf mb) m (immBytes v ++ rest)
  obtain ⟨rfl, -⟩ := List.cons.inj (hbytes.trans hhead)
  rw [hmod, verdict_eq_none_iff] at hverdict
  obtain ⟨hforbidden, hlock, -⟩ := hverdict
  have hform : i.form = f := congrArg Parts.form hparts
  have hraw : i.raw = _ := congrArg Parts.raw hparts
  constructor
  case prefixes => exact congrArg Parts.prefixes hparts
  case escape => rw [hform, hescape]
  case opcode => rw [hform, hraw, ← hopcode, Row.opcodeByte, Row.opcodeByte, if_neg (mask_of_hasModrm hm), if_neg (mask_of_hasModrm hm)]
  case bytes => rw [hform, hraw, hbytes, modrmBytes, regField_of_selected hm hdigit]
  case opsize => rw [hform, opsizeOk_iff]; exact ⟨hforbidden, hrequired⟩
  case lock => rw [hform, hraw]; exact hlock
  case rm => rw [hraw]; exact hrm
  case imm => rw [hform, hraw]; exact himm

theorem decodedFrom_of_no_modrm (hm : f.row.hasModrm = false)
    (hfind : (formsAt escape b).find? (fun f => f.row.selected p 0#8) = some f)
    (hverdict : f.row.verdict true p true = none) (h : readImmediate f p b bs = .got i rest) : DecodedFrom p escape b bs rest i := by
  obtain ⟨v, hparts, himm, hbytes⟩ := readImmediate_eq_got hm h
  obtain ⟨⟨hescape, hopcode⟩, -, hrequired⟩ := of_find_selected hfind
  obtain ⟨hforbidden, hlock, -⟩ := (verdict_eq_none_iff f.row p none).1 hverdict
  have hform : i.form = f := congrArg Parts.form hparts
  have hraw : i.raw = _ := congrArg Parts.raw hparts
  constructor
  case prefixes => exact congrArg Parts.prefixes hparts
  case escape => rw [hform, hescape]
  case opcode => rw [hform, hraw, hopcode]
  case bytes => rw [hform, hraw, hbytes]; rfl
  case opsize => rw [hform, opsizeOk_iff]; exact ⟨hforbidden, hrequired⟩
  case lock => rw [hform, hraw]; exact hlock
  case rm => rw [hraw]; rfl
  case imm => rw [hform, hraw]; exact himm

theorem decodeOpcode_eq_got (h : decodeOpcode true p escape b bs = .got i rest) : DecodedFrom p escape b bs rest i := by
  by_cases hne : formsAt escape b = []
  · rw [decodeOpcode_of_no_row hne] at h
    cases h
  rw [decodeOpcode_of_rows hne] at h
  split at h
  case isTrue hm =>
    obtain ⟨mb, bs, hmb, h⟩ := andThen_eq_got.1 h
    rw [takeByte_eq_got.1 hmb]
    cases hfind : (formsAt escape b).find? fun f => f.row.selected p mb with
    | none => rw [hfind] at h; cases h
    | some f =>
      rw [hfind] at h
      obtain ⟨hverdict, h⟩ := unlessRefused_eq_got.1 h
      exact decodedFrom_of_modrm ((hasModrm_of_mem_formsAt (List.mem_of_find?_eq_some hfind)).trans hm) hfind hverdict h
  case isFalse hm =>
    cases hfind : (formsAt escape b).find? fun f => f.row.selected p 0#8 with
    | none => rw [hfind] at h; cases h
    | some f =>
      rw [hfind] at h
      obtain ⟨hverdict, h⟩ := unlessRefused_eq_got.1 h
      exact decodedFrom_of_no_modrm ((hasModrm_of_mem_formsAt (List.mem_of_find?_eq_some hfind)).trans (by simpa using hm)) hfind hverdict h

end

theorem wf_encode_of_decodedFrom {p : Prefixes} {escape : Bool} {b : Byte} {bs rest : List Byte} {i : Instr}
    (h : DecodedFrom p escape b bs rest i) (hp : p.wf = true) :
    i.wf = true ∧ encode i ++ rest = p.map Prefix.byte ++ ((if escape then [0x0F#8, b] else [b]) ++ bs) := by
  obtain ⟨rfl, rfl, rfl, rfl, hopsize, hlock, hrm, himm⟩ := h
  exact ⟨by simp [Instr.wf, hp, hopsize, hlock, hrm, himm], by simp [encode, opcodeBytes_eq]⟩

theorem decode_eq_got {bs rest : List Byte} {i : Instr} (h : decode bs = .got i rest) : i.wf = true ∧ bs = encode i ++ rest := by
  obtain ⟨p, bs1, hp, h⟩ := andThen_eq_got.1 h
  obtain ⟨b, bs2, hb, h⟩ := andThen_eq_got.1 h
  obtain ⟨hwf, hbytes⟩ := readPrefixes_eq_got rfl hp
  rw [takeByte_eq_got.1 hb] at hbytes
  split at h
  case isTrue h0F =>
    obtain ⟨b2, bs3, hb2, h⟩ := andThen_eq_got.1 h
    obtain ⟨hi, hencode⟩ := wf_encode_of_decodedFrom (decodeOpcode_eq_got h) hwf
    refine ⟨hi, ?_⟩
    rw [hencode, ← List.nil_append bs]
    rw [takeByte_eq_got.1 hb2, h0F] at hbytes
    exact hbytes
  case isFalse =>
    obtain ⟨hi, hencode⟩ := wf_encode_of_decodedFrom (decodeOpcode_eq_got h) hwf
    exact ⟨hi, hbytes.trans hencode.symm⟩

end Sys2Proof
end

section
/-! What is decoded carries LOCK and `66` only where they may stand (30_encoding.md R103, R105). -/

namespace Sys2Proof
open Machine

/-- The rows that take LOCK: their mnemonics are those of R105, and their destination is the r/m operand. -/
theorem row_of_lock {f : Form} :
    f.row.lock = true →
      f.row.mnemonic ∈ [Mnemonic.ADD, .OR, .ADC, .SBB, .AND, .SUB, .XOR, .INC, .DEC, .NOT, .NEG, .BTS, .BTR, .BTC] ∧
        f.row.format ∈ [Format.MR, .MI, .M] := by
  cases f <;> decide

/-- The lockable mnemonics write their first operand. -/
theorem not_onlyReads_of_lockable {m : Mnemonic} :
    m ∈ [Mnemonic.ADD, .OR, .ADC, .SBB, .AND, .SUB, .XOR, .INC, .DEC, .NOT, .NEG, .BTS, .BTR, .BTC] →
      m ≠ .CALL ∧ onlyReads m = false ∧ oneIsSource m = false := by
  cases m <;> decide

theorem lockable_of_isMem {i : Instr} (hlock : i.form.row.lock = true) (hmem : isMem i.raw.rm = true) : Lockable i := by
  obtain ⟨hm, hformat⟩ := row_of_lock hlock
  change i.mnemonic ∈ _ at hm
  obtain ⟨hcall, hreads, hsource⟩ := not_onlyReads_of_lockable hm
  refine ⟨hm, fun s => ?_⟩
  obtain ⟨m, hrm⟩ := isMem_iff.1 hmem
  simp only [List.mem_cons, List.not_mem_nil, or_false] at hformat
  obtain h | h | h := hformat
  · simp [storesTo, hcall, operandsOf, rowOperands, h, hreads, hrm, rawPlace, placeBytes]
  · cases hbyte : takesByteImm i.form.row.mnemonic <;>
      simp [storesTo, hcall, operandsOf, rowOperands, h, hbyte, hreads, hrm, rawPlace, placeBytes]
  · simp [storesTo, hcall, operandsOf, rowOperands, h, hsource, hrm, rawPlace, placeBytes]

/-- The operand width that `66` gives a row on which it may stand (R103, R116). -/
theorem opsize_of_prefix66 {f : Form} : f.row.prefix66 ≠ .forbidden → f.row.opsize = .v ∨ f.row.opsize = .s16 := by
  cases f <;> decide

theorem width_eq_w16 {i : Instr} (h : i.form.row.prefix66 ≠ .forbidden) (hp : Prefix.opsize ∈ i.prefixes) : i.width = some .w16 := by
  obtain hv | h16 := opsize_of_prefix66 h
  · simp [Instr.width, Row.width, hv, opWidth, hp]
  · simp [Instr.width, Row.width, h16]

/-- Settles O45: each reader read what the encoder writes, and the verdict that did not fall is what LOCK and `66` ask. -/
theorem decodedIsWellFormedAndEncoded : Obligations.DecodedIsWellFormedAndEncoded := by
  intro bs rest i h
  obtain ⟨hwf, hbytes⟩ := decode_eq_got h
  refine ⟨hwf, hbytes, fun hlock => ?_, fun hopsize => ?_⟩ <;> simp only [Instr.wf, Bool.and_eq_true] at hwf
  · obtain ⟨⟨⟨-, hok⟩, -⟩, -⟩ := hwf
    obtain ⟨hrow, hmem⟩ := (lockOk_iff _ _ _).1 hok (by simpa using hlock)
    exact lockable_of_isMem hrow hmem
  · obtain ⟨⟨⟨⟨-, hok⟩, -⟩, -⟩, -⟩ := hwf
    refine width_eq_w16 (fun h => ?_) hopsize
    simpa [hopsize] using ((opsizeOk_iff _ _).1 hok).1 h

end Sys2Proof
end

section
/-! The encodings that are refused (30_encoding.md R103 to R107, R140): the stage of the decoder at which each verdict falls. -/

namespace Sys2Proof
open Machine

/-! ## Prefixes and opcodes -/

section
variable {p : Prefixes} (hp : p.wf = true) (bs : List Byte)
include hp

theorem decode_of_refusedPrefix {b : Byte} (hb : refusedPrefix b = true) :
    decode (p.map Prefix.byte ++ b :: bs) = .refuse .unsupportedInstruction bs := by
  rw [decode, decodeWith, readPrefixes_append [] p _ hp, List.nil_append, readPrefixes, if_pos hb, Parsed.andThen]

theorem decode_of_clash {q : Prefix} (hq : (p.any fun o => o.clash q) = true) :
    decode (p.map Prefix.byte ++ q.byte :: bs) = .refuse .unsupportedInstruction bs := by
  rw [decode, decodeWith, readPrefixes_append [] p _ hp]
  simp [readPrefixes, hq, Parsed.andThen]

theorem decode_of_opcode {b : Byte} (hr : refusedPrefix b = false) (hb : prefixOf b = none) (h0F : b ≠ 0x0F#8) :
    decode (p.map Prefix.byte ++ b :: bs) = decodeOpcode true p false b bs :=
  (decodeWith_prefixes hp hr hb bs).trans (if_neg h0F)

theorem decode_of_escape (b : Byte) : decode (p.map Prefix.byte ++ 0x0F#8 :: b :: bs) = decodeOpcode true p true b bs :=
  decodeWith_prefixes hp rfl rfl _

theorem decode_of_no_row {b : Byte} (hr : refusedPrefix b = false) (hb : prefixOf b = none) (h0F : b ≠ 0x0F#8) (h : formsAt false b = []) :
    decode (p.map Prefix.byte ++ b :: bs) = .refuse .unsupportedInstruction bs :=
  (decode_of_opcode hp bs hr hb h0F).trans (decodeOpcode_of_no_row h)

theorem decode_of_no_escape_row {b : Byte} (h : formsAt true b = []) :
    decode (p.map Prefix.byte ++ 0x0F#8 :: b :: bs) = .refuse (opcodeVerdict true b) bs :=
  (decode_of_escape hp bs b).trans (decodeOpcode_of_no_row h)

end

/-! ## ModR/M digits -/

/-- The opcode has rows with a ModR/M byte and none for this digit, with `66` or without. -/
def lacksDigit (escape : Bool) (b : Byte) (digit : BitVec 3) : Bool :=
  opcodeHasModrm escape b &&
    [false, true].all fun opsize => ((formsAt escape b).find? fun f => f.row.selectedBy opsize digit).isNone

theorem decodeOpcode_of_lacksDigit {escape : Bool} {b mb : Byte} (h : lacksDigit escape b (regOf mb) = true) (p : Prefixes) (bs : List Byte) :
    decodeOpcode true p escape b (mb :: bs) = .refuse (digitVerdict escape b (regOf mb)) bs := by
  simp only [lacksDigit, Bool.and_eq_true, List.all_eq_true, Option.isNone_iff_eq_none] at h
  obtain ⟨hm, hnone⟩ := h
  exact decodeOpcode_of_no_digit hm (hnone (p.contains .opsize) (by cases p.contains .opsize <;> simp))

/-- A one-byte opcode, not among the prefixes, that refuses a digit by the verdict `v`. -/
def refusesDigit (b : Byte) (digit : BitVec 3) (v : Reject) : Bool :=
  !refusedPrefix b && (prefixOf b).isNone && b != 0x0F#8 && lacksDigit false b digit && digitVerdict false b digit == v

theorem decode_of_refusesDigit {p : Prefixes} (hp : p.wf = true) (bs : List Byte) {b m : Byte} {v : Reject}
    (h : refusesDigit b (regOf m) v = true) : decode (p.map Prefix.byte ++ b :: m :: bs) = .refuse v bs := by
  simp only [refusesDigit, Bool.and_eq_true, Bool.not_eq_true', Option.isNone_iff_eq_none, bne_iff_ne, beq_iff_eq] at h
  obtain ⟨⟨⟨⟨hr, hb⟩, h0F⟩, hdigit⟩, hv⟩ := h
  rw [decode_of_opcode hp _ hr hb h0F, decodeOpcode_of_lacksDigit hdigit, hv]

theorem refusesDigit_group2 : ∀ b ∈ [0xC0#8, 0xC1#8, 0xD0#8, 0xD1#8, 0xD2#8, 0xD3#8], refusesDigit b 6#3 .unsupportedInstruction = true := by
  decide

theorem refusesDigit_group3 : ∀ b ∈ [0xF6#8, 0xF7#8], refusesDigit b 1#3 .unsupportedInstruction = true := by
  decide

theorem refusesDigit_group5 : ∀ g ∈ [3#3, 5#3, 6#3], refusesDigit 0xFF#8 g .unsupportedInstruction = true := by
  decide

theorem refusesDigit_FE : ∀ g : BitVec 3, 2 ≤ g.toNat → refusesDigit 0xFE#8 g .invalidOpcode = true := by
  decide

theorem refusesDigit_FF : refusesDigit 0xFF#8 7#3 .invalidOpcode = true := by
  decide

theorem refusesDigit_C6_C7 : ∀ g : BitVec 3, g ≠ 0#3 →
    refusesDigit 0xC6#8 g .invalidOpcode = true ∧ refusesDigit 0xC7#8 g .invalidOpcode = true := by
  decide

theorem lacksDigit_BA : ∀ g : BitVec 3, g.toNat < 4 → lacksDigit true 0xBA#8 g = true := by
  decide

/-- LEA of a register: `66` may stand on the row and LOCK may not, so the verdict is the same with any prefixes. -/
theorem decode_lea_of_register {p : Prefixes} (hp : p.wf = true) (bs : List Byte) {m : Byte} (hm : modOf m = 3#2) :
    decode (p.map Prefix.byte ++ 0x8D#8 :: m :: bs) = .refuse .invalidOpcode bs := by
  have hselect : (formsAt false 0x8D#8).find? (fun f => f.row.selected p m) = some .leaRM := find_opcodeByte .leaRM 0#3 p m rfl rfl
  have hverdict : Form.leaRM.row.verdict true p true = some .invalidOpcode := by
    simp [Row.verdict, Form.row, dataRow]
  rw [decode_of_opcode hp _ rfl rfl (by decide), decodeOpcode_of_modrm rfl hselect, hm]
  simp only [beq_self_eq_true, hverdict, Parsed.unlessRefused]

/-! ## LOCK and `66` -/

/-- The encoding of an instruction is refused by the verdict on the row that `66` and the digit select, where there is one. -/
theorem decode_encode_of_verdict {i : Instr} {f : Form} {v : Reject} (hp : i.prefixes.wf = true)
    (hfind : ∀ mb, i.form.row.regField (regOf mb) = regOf mb →
      (formsAt i.form.row.escape (i.form.row.opcodeByte i.raw.reg)).find? (fun h => h.row.selected i.prefixes mb) = some f)
    (hv : f.row.verdict true i.prefixes (!isMem i.raw.rm) = some v) (bs : List Byte) : ∃ l, decode (encode i ++ bs) = .refuse v l := by
  have hmem := List.contains_iff_mem.1 (mem_formsAt i.form i.raw.reg).1
  have hrows {mb : Byte} (hmb : i.form.row.regField (regOf mb) = regOf mb) : f.row.hasModrm = i.form.row.hasModrm :=
    (hasModrm_of_mem_formsAt (List.mem_of_find?_eq_some (hfind mb hmb))).trans (hasModrm_of_mem_formsAt hmem).symm
  rw [decode, decodeWith_encode _ _ _ hp, modrmBytes]
  cases hrm : i.raw.rm with
  | none =>
    have hm : i.form.row.hasModrm = false := by rw [← raw_rm_isSome, hrm]; rfl
    have hfield : i.form.row.regField (regOf 0#8) = regOf 0#8 := by
      simp [Row.regField, modrm_of_not_hasModrm hm]
    rw [hrm] at hv
    rw [decodeOpcode_of_no_modrm ((hrows hfield).trans hm) (hfind _ hfield)]
    exact ⟨_, by simp only [Config.std]; rw [show f.row.verdict true i.prefixes true = some v from hv]; rfl⟩
  | some m =>
    have hm : i.form.row.hasModrm = true := by rw [← raw_rm_isSome, hrm]; rfl
    obtain ⟨mb, l, hbytes, hreg, hmod, -⟩ := rmBytes_append (i.form.row.regField i.raw.reg) m (immBytes i.raw.imm ++ bs)
    have hfield : i.form.row.regField (regOf mb) = regOf mb := by
      rw [hreg, regField_regField]
    rw [hrm, ← hmod] at hv
    simp only [hbytes]
    rw [decodeOpcode_of_modrm ((hrows hfield).trans hm) (hfind _ hfield)]
    exact ⟨_, by simp only [Config.std, hv, Parsed.unlessRefused]; rfl⟩

theorem verdict_of_opsize {r : Row} {p : Prefixes} (h66 : r.prefix66 = .forbidden) (hp : Prefix.opsize ∈ p) (isReg : Bool) :
    r.verdict true p isReg = some .unsupportedInstruction := by
  simp [Row.verdict, h66, hp]

theorem verdict_of_lock {r : Row} {p : Prefixes} {isReg : Bool} (h66 : r.prefix66 = .forbidden → Prefix.opsize ∉ p) (hp : Prefix.lock ∈ p)
    (hlock : r.lock = true → isReg = true) : r.verdict true p isReg = some .invalidOpcode := by
  have hno66 : ¬ (r.prefix66 = .forbidden ∧ Prefix.opsize ∈ p) := fun h => h66 h.1 h.2
  have hno : r.lock = false ∨ isReg = true := by
    simpa [Classical.or_iff_not_imp_left] using hlock
  simp [Row.verdict, hno66, hp, hno]

/-- A row that wants `66` is one of two of its opcode; without `66` the other is selected, which takes no LOCK (R103). -/
theorem find_without_opsize {f : Form} : f.row.prefix66 = .required →
    ∃ h : Form, h.row.lock = false ∧
      ∀ k g, (formsAt f.row.escape (f.row.opcodeByte k)).find? (fun h => h.row.selectedBy false g) = some h := by
  cases f
  case cbw => exact fun _ => ⟨.cwde, rfl, by decide⟩
  case cwd => exact fun _ => ⟨.cdq, rfl, by decide⟩
  case cmpsw => exact fun _ => ⟨.cmpsd, rfl, by decide⟩
  all_goals exact fun h => by cases h

/-- A row that forbids `66` is selected with it too, but where the opcode has a row that wants it (R103). -/
theorem find_with_opsize (f : Form) (k g : BitVec 3) : f.row.prefix66 = .forbidden → f.row.mnemonic ∉ [Mnemonic.CWDE, .CDQ, .CMPSD] →
    f.row.regField g = g → (formsAt f.row.escape (f.row.opcodeByte k)).find? (fun h => h.row.selectedBy true g) = some f := by
  cases f <;> revert k g <;> decide +kernel

/-- The operand width of a row that forbids `66` (R116). -/
theorem width_ne_w16 {i : Instr} (h : i.form.row.prefix66 = .forbidden) : i.width ≠ some .w16 := by
  have hopsize (f : Form) : f.row.prefix66 = .forbidden → f.row.opsize ≠ .v ∧ f.row.opsize ≠ .s16 := by
    cases f <;> decide
  obtain ⟨hv, h16⟩ := hopsize i.form h
  unfold Instr.width Row.width
  split <;> simp_all

theorem decode_encode_of_lock {i : Instr} (hp : i.prefixes.wf = true) (hlock : Prefix.lock ∈ i.prefixes) (hno : ¬ Lockable i)
    (h66 : Prefix.opsize ∈ i.prefixes → i.width = some .w16) (bs : List Byte) : ∃ l, decode (encode i ++ bs) = .refuse .invalidOpcode l := by
  have hforbidden : i.form.row.prefix66 = .forbidden → Prefix.opsize ∉ i.prefixes := fun h hmem => width_ne_w16 h (h66 hmem)
  by_cases hrequired : i.form.row.prefix66 = .required → Prefix.opsize ∈ i.prefixes
  · have hok : opsizeOk i.form.row i.prefixes = true := by
      simpa [opsizeOk_iff] using And.intro hforbidden hrequired
    have hverdict : i.form.row.verdict true i.prefixes (!isMem i.raw.rm) = some .invalidOpcode := by
      refine verdict_of_lock hforbidden hlock fun hrow => ?_
      cases hmem : isMem i.raw.rm with
      | true => exact absurd (lockable_of_isMem hrow hmem) hno
      | false => rfl
    exact decode_encode_of_verdict hp (fun mb hmb => find_opcodeByte i.form _ _ mb hok hmb) hverdict bs
  · obtain ⟨hrequired, hno66⟩ := Classical.not_imp.1 hrequired
    obtain ⟨f, hrow, hfind⟩ := find_without_opsize hrequired
    have hverdict : f.row.verdict true i.prefixes (!isMem i.raw.rm) = some .invalidOpcode :=
      verdict_of_lock (fun _ => hno66) hlock fun h => by simp [hrow] at h
    refine decode_encode_of_verdict hp (fun mb _ => ?_) hverdict bs
    simp only [selected_eq, List.contains_eq_mem, decide_eq_false hno66]
    exact hfind _ _

theorem decode_encode_of_opsize {i : Instr} (hp : i.prefixes.wf = true) (h66 : Prefix.opsize ∈ i.prefixes) (hwidth : i.width ≠ some .w16)
    (hm : i.mnemonic ∉ [Mnemonic.CWDE, .CDQ, .CMPSD]) (bs : List Byte) :
    ∃ l, decode (encode i ++ bs) = .refuse .unsupportedInstruction l := by
  have hforbidden : i.form.row.prefix66 = .forbidden := by
    by_contra h
    exact hwidth (width_eq_w16 h h66)
  refine decode_encode_of_verdict hp (fun mb hmb => ?_) (verdict_of_opsize hforbidden h66 _) bs
  simp only [selected_eq, List.contains_eq_mem, decide_eq_true h66]
  exact find_with_opsize i.form _ _ hforbidden hm hmb

theorem any_clash_of_repeated {p : Prefixes} {q : Prefix} (h : ∃ o ∈ p, o = q ∨ ∃ x y, o = .seg x ∧ q = .seg y) :
    (p.any fun o => o.clash q) = true := by
  obtain ⟨o, ho, hq⟩ := h
  refine List.any_eq_true.2 ⟨o, ho, (Prefix.clash_iff o q).2 ?_⟩
  obtain rfl | ⟨x, y, rfl, rfl⟩ := hq <;> rfl

/-- Settles O46: each byte is refused at the stage of the decoder that reads it. -/
theorem refusedEncodingsGiveTheirVerdict : Obligations.RefusedEncodingsGiveTheirVerdict := by
  refine ⟨fun p bs hp => ⟨?_, ?_, ?_, ?_, ?_, ?_, ?_, fun m => ⟨?_, ?_, ?_, ?_, ?_, ?_, ?_, ?_⟩⟩, fun i bs hp => ⟨?_, ?_⟩⟩
  · exact fun b hb => decode_of_refusedPrefix hp bs (by revert b; decide)
  · exact fun q hq => decode_of_clash hp bs (any_clash_of_repeated hq)
  · exact fun b hrow hb hr h0F => decode_of_no_row hp bs hr hb h0F (formsAt_eq_nil hrow)
  · intro b hrow h0B
    rw [decode_of_no_escape_row hp bs (formsAt_eq_nil hrow)]
    simp [opcodeVerdict, h0B]
  · intro b hb
    have hfacts : ∀ b ∈ [0x82#8, 0x90#8], refusedPrefix b = false ∧ prefixOf b = none ∧ b ≠ 0x0F#8 ∧ formsAt false b = [] := by decide
    obtain ⟨hr, hprefix, h0F, hrow⟩ := hfacts b hb
    exact decode_of_no_row hp bs hr hprefix h0F hrow
  · exact decode_of_no_escape_row hp bs (by decide)
  · exact decode_of_no_escape_row hp bs (by decide)
  · exact fun hm b hb => decode_of_refusesDigit hp bs (hm ▸ refusesDigit_group2 b hb)
  · exact fun hm b hb => decode_of_refusesDigit hp bs (hm ▸ refusesDigit_group3 b hb)
  · exact fun hm => decode_of_refusesDigit hp bs (refusesDigit_group5 _ hm)
  · exact decode_lea_of_register hp bs
  · exact fun hm => decode_of_refusesDigit hp bs (refusesDigit_FE _ hm)
  · exact fun hm => decode_of_refusesDigit hp bs (hm ▸ refusesDigit_FF)
  · exact fun hm => ⟨decode_of_refusesDigit hp bs (refusesDigit_C6_C7 _ hm).1, decode_of_refusesDigit hp bs (refusesDigit_C6_C7 _ hm).2⟩
  · exact fun hm => (decode_of_escape hp _ _).trans (decodeOpcode_of_lacksDigit (lacksDigit_BA _ hm) p bs)
  · exact fun hlock hno h66 => decode_encode_of_lock hp hlock hno h66 bs
  · exact fun h66 hwidth hm _ => decode_encode_of_opsize hp h66 hwidth hm bs

end Sys2Proof
end

section
/-! The prefixes that are accepted and ignored (30_encoding.md R104, R105; 20_memory.md R82): two instructions of one row, with the same operand
fields and width, have one handler, and what a handler writes does not depend on EIP. -/

namespace Sys2Proof.Machine

/-- The state with another EIP. -/
def State.withEip (s : State) (e : Word) : State := { s with eip := e }

/-- What the handler writes does not depend on EIP; a fault may carry it. -/
def Handler.IgnoresEip (h : Handler) : Prop := ∀ s n e x, h s n = .ok x → h (s.withEip e) n = .ok x

/-- All handlers but those that can raise DivideError answer the same at every EIP: the operand list decides what is read. -/
theorem handlerFor_withEip {m : Mnemonic} (o : Operands) (hm : m ∉ [Mnemonic.DIV, .IDIV, .AAM]) (s : State) (n e : Word) :
    handlerFor m o (s.withEip e) n = handlerFor m o s n := by
  cases m
  case DIV | IDIV | AAM => simp at hm
  case LEA =>
    cases o with
    | two d src => rcases src with (_ | _) | _ <;> rfl
    | _ => rfl
  case AAD | RET =>
    cases o with
    | @imm w v => cases w <;> rfl
    | _ => rfl
  case CALL | JMP | BSWAP =>
    cases o with
    | @one w d => cases w <;> rfl
    | _ => rfl
  all_goals cases o <;> rfl

/-- A guard may give another fault. -/
theorem ok_of_guard {c : Prop} [Decidable c] {f g : Fault} {x x' : Except Fault Effect} {y : Effect} (hx : x = .ok y → x' = .ok y)
    (h : (if c then .error f else x) = .ok y) : (if c then .error g else x') = .ok y := by
  split at h
  · cases h
  · rw [if_neg ‹_›]
    exact hx h

theorem divH_ignoresEip {w : Width} (src : Place w) : (divH src).IgnoresEip := by
  intro s n e x h
  obtain ⟨d, hd, h⟩ := except_bind_ok.1 h
  exact except_bind_ok.2 ⟨d, hd, ok_of_guard (ok_of_guard id) h⟩

theorem idivH_ignoresEip {w : Width} (src : Place w) : (idivH src).IgnoresEip := by
  intro s n e x h
  obtain ⟨d, hd, h⟩ := except_bind_ok.1 h
  exact except_bind_ok.2 ⟨d, hd, ok_of_guard (ok_of_guard id) h⟩

theorem aamH_ignoresEip (base : Byte) : (aamH base).IgnoresEip := fun _ _ _ _ h => ok_of_guard id h

theorem noH_ignoresEip : noH.IgnoresEip := fun _ _ _ _ h => h

theorem handlerFor_ignoresEip (m : Mnemonic) (o : Operands) : (handlerFor m o).IgnoresEip := by
  by_cases hm : m ∈ [Mnemonic.DIV, .IDIV, .AAM]
  · simp only [List.mem_cons, List.not_mem_nil, or_false] at hm
    obtain rfl | rfl | rfl := hm
    · cases o with
      | one src => exact divH_ignoresEip src
      | _ => exact noH_ignoresEip
    · cases o with
      | one src => exact idivH_ignoresEip src
      | _ => exact noH_ignoresEip
    · cases o with
      | @imm w v =>
        cases w
        case w8 => exact aamH_ignoresEip v
        all_goals exact noH_ignoresEip
      | _ => exact noH_ignoresEip
  · exact fun s n e x h => (handlerFor_withEip o hm s n e).trans h

/-- A step is the same from another EIP with another length, where both end at one address: the commit sets EIP anew. -/
theorem perform_withEip {i j : Instr} {h : Handler} (hh : h.IgnoresEip) {s t : State} {e : Word} (he : nextIp j (s.withEip e) = nextIp i s)
    (ht : perform i h s = .next t) : perform j h (s.withEip e) = .next t := by
  obtain ⟨x, hx, hvalid, rfl⟩ := perform_next.1 ht
  exact perform_next.2 ⟨x, by rw [he]; exact hh s _ e x hx, hvalid, by rw [he]; rfl⟩

/-- The operand list depends on the prefixes by `66` alone (R103, R104, R105). -/
theorem operandsOf_congr {i j : Instr} (hform : i.form = j.form) (hraw : i.raw = j.raw)
    (h66 : Prefix.opsize ∈ i.prefixes ↔ Prefix.opsize ∈ j.prefixes) : operandsOf i = operandsOf j := by
  have hwidth : opWidth i.prefixes = opWidth j.prefixes := by simp [opWidth, h66]
  simp only [operandsOf, Instr.width, Row.width, hform, hraw, hwidth]

/-- Settles O48: both instructions are performed by one handler, and end at one address. -/
theorem ignoredPrefixesHaveNoEffect : Obligations.IgnoredPrefixesHaveNoEffect := by
  intro i j s t hform hraw h66 hexec
  have hmnemonic : i.mnemonic = j.mnemonic := congrArg (fun f => f.row.mnemonic) hform
  rw [exec_eq_perform, hmnemonic, operandsOf_congr hform hraw h66] at hexec
  rw [exec_eq_perform]
  refine perform_withEip (handlerFor_ignoresEip _ _) ?_ hexec
  simp only [nextIp, State.withEip, BitVec.sub_add_cancel]

end Sys2Proof.Machine
end

section
/-! The shape of the operands of every instruction (30_encoding.md R115), from the formats of its mnemonic's rows. -/

namespace Sys2Proof.Machine

/-! ## The rows of a mnemonic -/

/-- The formats that the rows of a mnemonic have (R115, R118 to R120). -/
def formatsOf : Mnemonic → List Format
  | .ADD | .OR | .ADC | .SBB | .AND | .SUB | .XOR | .CMP => [.MR, .RM, .I, .MI]
  | .TEST => [.MR, .I, .MI]
  | .MOV => [.MR, .RM, .OI, .MI, .FD, .TD]
  | .INC | .DEC => [.O, .M]
  | .NOT | .NEG | .MUL | .DIV | .IDIV => [.M]
  | .IMUL => [.M, .RM, .RMI]
  | .LEA | .MOVZX | .MOVSX | .BSF | .BSR => [.RM]
  | .CMOVO | .CMOVNO | .CMOVB | .CMOVAE | .CMOVE | .CMOVNE | .CMOVBE | .CMOVA | .CMOVS | .CMOVNS | .CMOVP | .CMOVNP | .CMOVL | .CMOVGE
  | .CMOVLE | .CMOVG => [.RM]
  | .CBW | .CWDE | .CWD | .CDQ | .CMPSB | .CMPSW | .CMPSD | .CLC | .STC | .CMC | .CLD | .STD => [.ZO]
  | .AAM | .AAD => [.IB]
  | .ROL | .ROR | .RCL | .RCR | .SHL | .SHR | .SAR => [.MI, .M1, .MC]
  | .CALL | .JMP => [.D, .M]
  | .RET => [.ZO, .IW]
  | .JO | .JNO | .JB | .JAE | .JE | .JNE | .JBE | .JA | .JS | .JNS | .JP | .JNP | .JL | .JGE | .JLE | .JG => [.D]
  | .BSWAP => [.O]
  | .BT | .BTS | .BTR | .BTC => [.MR, .MI]

theorem format_mem_formatsOf (f : Form) : f.row.format ∈ formatsOf f.row.mnemonic := by
  cases f <;> decide

/-- Only MOVZX and MOVSX have a source of a width of its own. -/
theorem srcWidth_eq_none {f : Form} : f.row.mnemonic ≠ .MOVZX → f.row.mnemonic ≠ .MOVSX → f.row.srcWidth = none := by
  cases f <;> decide

theorem srcWidth_of_widening {f : Form} : f.row.mnemonic = .MOVZX ∨ f.row.mnemonic = .MOVSX →
    f.row.opsize = .v ∧ (f.row.srcWidth = some .w8 ∨ f.row.srcWidth = some .w16) := by
  cases f <;> decide

theorem memOnly_of_lea {f : Form} : f.row.mnemonic = .LEA → f.row.memOnly = true := by
  cases f <;> decide

/-- An r/m operand of CALL and JMP, and the register of BSWAP, have width 32. -/
theorem opsize_of_width32 {f : Form} : f.row.mnemonic ∈ [Mnemonic.CALL, .JMP, .BSWAP] → f.row.format = .D ∨ f.row.opsize = .s32 := by
  cases f <;> decide

/-! ## The operands of a format -/

section
variable {r : Row} {w : Width} {x : Raw}

theorem rowOperands_two (hf : r.format ∈ [Format.MR, .RM, .MI, .I, .OI, .FD, .TD]) (hsrc : r.srcWidth = none)
    (hb : takesByteImm r.mnemonic = false) : ∃ (dst : Place w) (src : Operand w), rowOperands r w x = .two dst src := by
  simp only [List.mem_cons, List.not_mem_nil, or_false] at hf
  obtain h | h | h | h | h | h | h := hf <;> simp [rowOperands, h, hsrc, hb]

theorem rowOperands_one (hf : r.format ∈ [Format.M, .O]) : ∃ dst : Place w, rowOperands r w x = .one dst := by
  simp only [List.mem_cons, List.not_mem_nil, or_false] at hf
  obtain h | h := hf <;> simp [rowOperands, h]

theorem rowOperands_byteSrc (hf : r.format ∈ [Format.MI, .M1, .MC]) (hb : takesByteImm r.mnemonic = true) :
    ∃ (dst : Place w) (cnt : Operand .w8), rowOperands r w x = .byteSrc dst cnt := by
  simp only [List.mem_cons, List.not_mem_nil, or_false] at hf
  obtain h | h | h := hf <;> simp [rowOperands, h, hb]

theorem rowOperands_RM (hf : r.format = .RM) (hsrc : r.srcWidth = none) :
    rowOperands r w x = .two (.reg (viewOfNum w x.reg)) (.place (rawPlace w (x.rm.getD (.reg 0#3)))) := by
  simp only [rowOperands, hf, hsrc]

theorem rowOperands_widen (hf : r.format = .RM) {v : Width} (hsrc : r.srcWidth = some v) :
    rowOperands r w x = .widen (.reg (viewOfNum w x.reg)) (rawPlace v (x.rm.getD (.reg 0#3))) := by
  simp only [rowOperands, hf, hsrc]

end

/-! ## The operands of a mnemonic -/

section
variable {i : Instr}

theorem format_mem : i.form.row.format ∈ formatsOf i.mnemonic := format_mem_formatsOf i.form

theorem format_eq {g : Format} (h : formatsOf i.mnemonic = [g]) : i.form.row.format = g := by
  simpa [h] using format_mem (i := i)

theorem width_eq_w32 (h : i.mnemonic ∈ [Mnemonic.CALL, .JMP, .BSWAP]) (hformat : i.form.row.format ≠ .D) : i.width.getD .w32 = .w32 := by
  simp [Instr.width, Row.width, (opsize_of_width32 h).resolve_left hformat]

theorem operandsOf_eq_two
    (h : i.mnemonic ∈ [Mnemonic.ADD, .OR, .ADC, .SBB, .AND, .SUB, .XOR, .CMP, .TEST, .MOV]) :
    ∃ (w : Width) (dst : Place w) (src : Operand w), operandsOf i = .two dst src := by
  have hm (m : Mnemonic) : m ∈ [Mnemonic.ADD, .OR, .ADC, .SBB, .AND, .SUB, .XOR, .CMP, .TEST, .MOV] →
      formatsOf m ⊆ [.MR, .RM, .MI, .I, .OI, .FD, .TD] ∧ m ≠ .MOVZX ∧ m ≠ .MOVSX ∧ takesByteImm m = false := by
    cases m <;> decide
  obtain ⟨hformats, hzx, hsx, hbyte⟩ := hm _ h
  exact ⟨_, rowOperands_two (hformats format_mem) (srcWidth_eq_none hzx hsx) hbyte⟩

theorem operandsOf_eq_one (h : i.mnemonic ∈ [Mnemonic.INC, .DEC, .NOT, .NEG, .MUL, .DIV, .IDIV]) :
    ∃ (w : Width) (dst : Place w), operandsOf i = .one dst := by
  have hm (m : Mnemonic) : m ∈ [Mnemonic.INC, .DEC, .NOT, .NEG, .MUL, .DIV, .IDIV] → formatsOf m ⊆ [.M, .O] := by
    cases m <;> decide
  exact ⟨_, rowOperands_one (hm _ h format_mem)⟩

theorem operandsOf_eq_byteSrc (h : i.mnemonic ∈ [Mnemonic.ROL, .ROR, .RCL, .RCR, .SHL, .SHR, .SAR]) :
    ∃ (w : Width) (dst : Place w) (cnt : Operand .w8), operandsOf i = .byteSrc dst cnt := by
  have hm (m : Mnemonic) : m ∈ [Mnemonic.ROL, .ROR, .RCL, .RCR, .SHL, .SHR, .SAR] →
      formatsOf m ⊆ [.MI, .M1, .MC] ∧ takesByteImm m = true := by
    cases m <;> decide
  obtain ⟨hformats, hbyte⟩ := hm _ h
  exact ⟨_, rowOperands_byteSrc (hformats format_mem) hbyte⟩

theorem operandsOf_of_bitTest (h : i.mnemonic ∈ [Mnemonic.BT, .BTS, .BTR, .BTC]) :
    (∃ (w : Width) (dst : Place w) (idx : Operand w), operandsOf i = .two dst idx) ∨
      ∃ (w : Width) (dst : Place w) (idx : Operand .w8), operandsOf i = .byteSrc dst idx := by
  have hm (m : Mnemonic) : m ∈ [Mnemonic.BT, .BTS, .BTR, .BTC] → formatsOf m ⊆ [.MR, .MI] ∧ takesByteImm m = true := by
    cases m <;> decide
  obtain ⟨hformats, hbyte⟩ := hm _ h
  have hformat := hformats format_mem
  simp only [List.mem_cons, List.not_mem_nil, or_false] at hformat
  obtain hMR | hMI := hformat
  · exact .inl ⟨_, _, _, by simp only [operandsOf, rowOperands, hMR]; rfl⟩
  · exact .inr ⟨_, rowOperands_byteSrc (by simp [hMI]) hbyte⟩

/-- A register and an r/m operand of one width. -/
theorem operandsOf_of_RM (hformat : i.form.row.format = .RM) (hzx : i.mnemonic ≠ .MOVZX) (hsx : i.mnemonic ≠ .MOVSX) :
    ∃ (w : Width) (x : View w), operandsOf i = .two (.reg x) (.place (rawPlace w (i.raw.rm.getD (.reg 0#3)))) :=
  ⟨_, _, rowOperands_RM hformat (srcWidth_eq_none hzx hsx)⟩

theorem operandsOf_of_imul (h : i.mnemonic = .IMUL) :
    (∃ (w : Width) (src : Place w), operandsOf i = .one src) ∨
      (∃ (w : Width) (x : View w) (src : Operand w), operandsOf i = .two (.reg x) src) ∨
      ∃ (w : Width) (x : View w) (src : Place w) (v : Operand w), operandsOf i = .three (.reg x) src v := by
  have hformat := format_mem (i := i)
  simp only [h, formatsOf, List.mem_cons, List.not_mem_nil, or_false] at hformat
  obtain hM | hRM | hRMI := hformat
  · exact .inl ⟨_, rowOperands_one (by simp [hM])⟩
  · obtain ⟨w, x, hx⟩ := operandsOf_of_RM hRM (by simp [h]) (by simp [h])
    exact .inr (.inl ⟨w, x, _, hx⟩)
  · exact .inr (.inr ⟨_, _, _, _, by simp only [operandsOf, rowOperands, hRMI]; rfl⟩)

theorem operandsOf_of_scan_or_cmov (h : i.mnemonic = .BSF ∨ i.mnemonic = .BSR ∨ (cmovCond i.mnemonic).isSome) :
    ∃ (w : Width) (x : View w) (src : Operand w), operandsOf i = .two (.reg x) src := by
  have hm (m : Mnemonic) : m = .BSF ∨ m = .BSR ∨ (cmovCond m).isSome → formatsOf m = [.RM] ∧ m ≠ .MOVZX ∧ m ≠ .MOVSX := by
    cases m <;> decide
  obtain ⟨hformats, hzx, hsx⟩ := hm _ h
  obtain ⟨w, x, hx⟩ := operandsOf_of_RM (format_eq hformats) hzx hsx
  exact ⟨w, x, _, hx⟩

theorem operandsOf_of_bswap (h : i.mnemonic = .BSWAP) : ∃ r : Reg, operandsOf i = .one (w := .w32) (.reg (.d r)) := by
  have hformat := format_eq (i := i) (by rw [h]; rfl)
  have hwidth := width_eq_w32 (i := i) (by simp [h]) (by simp [hformat])
  exact ⟨Reg.ofNum i.raw.reg, by rw [operandsOf, hwidth]; simp only [rowOperands, hformat]; rfl⟩

theorem opWidth_bits (p : Prefixes) : Width.w16.bits ≤ (opWidth p).bits := by
  unfold opWidth
  split <;> decide

theorem operandsOf_of_movzx_or_movsx (h : i.mnemonic = .MOVZX ∨ i.mnemonic = .MOVSX) :
    ∃ (w v : Width) (x : View w) (src : Place v), v.bits ≤ w.bits ∧ operandsOf i = .widen (.reg x) src := by
  have hm (m : Mnemonic) : m = .MOVZX ∨ m = .MOVSX → formatsOf m = [.RM] := by
    cases m <;> decide
  have hformat := format_eq (hm _ h)
  obtain ⟨hsize, hsrc⟩ := srcWidth_of_widening h
  have hwidth : i.width.getD .w32 = opWidth i.prefixes := by simp [Instr.width, Row.width, hsize]
  have hbits := opWidth_bits i.prefixes
  rw [← hwidth] at hbits
  obtain hsrc | hsrc := hsrc
  · exact ⟨_, .w8, _, _, le_trans (by decide) hbits, rowOperands_widen hformat hsrc⟩
  · exact ⟨_, .w16, _, _, hbits, rowOperands_widen hformat hsrc⟩

/-- The source of LEA is memory (R140). -/
theorem operandsOf_of_lea (h : i.mnemonic = .LEA) :
    ∃ (w : Width) (x : View w) (e : EaExpr), operandsOf i = .two (.reg x) (.place (.mem e)) := by
  have hformat := format_eq (i := i) (by rw [h]; rfl)
  obtain ⟨w, x, hx⟩ := operandsOf_of_RM hformat (by simp [h]) (by simp [h])
  obtain ⟨m, hm⟩ := isMem_iff.1 (isMem_of_memOnly i (memOnly_of_lea h))
  exact ⟨w, x, eaOf m, by rw [hx, hm]; rfl⟩

theorem operandsOf_of_call_or_jmp (h : i.mnemonic = .CALL ∨ i.mnemonic = .JMP) :
    (∃ disp : Word, operandsOf i = .target disp) ∨ ∃ src : Place .w32, operandsOf i = .one src := by
  have hm (m : Mnemonic) : m = .CALL ∨ m = .JMP → formatsOf m = [.D, .M] ∧ m ∈ [Mnemonic.CALL, .JMP, .BSWAP] := by
    cases m <;> decide
  obtain ⟨hformats, hmem⟩ := hm _ h
  have hformat := format_mem (i := i)
  simp only [hformats, List.mem_cons, List.not_mem_nil, or_false] at hformat
  obtain hD | hM := hformat
  · exact .inl ⟨rawRel i.raw.imm, by simp only [operandsOf, rowOperands, hD]⟩
  · exact .inr (by rw [operandsOf, width_eq_w32 hmem (by simp [hM])]; exact rowOperands_one (by simp [hM]))

theorem operandsOf_of_ret (h : i.mnemonic = .RET) : operandsOf i = .none ∨ ∃ n : BitVec 16, operandsOf i = .imm (w := .w16) n := by
  have hformat := format_mem (i := i)
  simp only [h, formatsOf, List.mem_cons, List.not_mem_nil, or_false] at hformat
  obtain hZO | hIW := hformat
  · exact .inl (by simp only [operandsOf, rowOperands, hZO])
  · exact .inr ⟨rawImm .w16 i.raw.imm, by simp only [operandsOf, rowOperands, hIW]⟩

theorem operandsOf_of_jcc (h : (jccCond i.mnemonic).isSome) : ∃ disp : Word, operandsOf i = .target disp := by
  have hm (m : Mnemonic) : (jccCond m).isSome → formatsOf m = [.D] := by
    cases m <;> decide
  have hformat := format_eq (hm _ h)
  exact ⟨rawRel i.raw.imm, by simp only [operandsOf, rowOperands, hformat]⟩

theorem operandsOf_of_aad_or_aam (h : i.mnemonic = .AAD ∨ i.mnemonic = .AAM) : ∃ base : Byte, operandsOf i = .imm (w := .w8) base := by
  have hm (m : Mnemonic) : m = .AAD ∨ m = .AAM → formatsOf m = [.IB] := by
    cases m <;> decide
  have hformat := format_eq (hm _ h)
  exact ⟨rawImm .w8 i.raw.imm, by simp only [operandsOf, rowOperands, hformat]⟩

theorem operandsOf_eq_none
    (h : i.mnemonic ∈ [Mnemonic.CBW, .CWDE, .CWD, .CDQ, .CMPSB, .CMPSW, .CMPSD, .CLC, .STC, .CMC, .CLD, .STD]) : operandsOf i = .none := by
  have hm (m : Mnemonic) : m ∈ [Mnemonic.CBW, .CWDE, .CWD, .CDQ, .CMPSB, .CMPSW, .CMPSD, .CLC, .STC, .CMC, .CLD, .STD] →
      formatsOf m = [.ZO] := by
    cases m <;> decide
  have hformat := format_eq (hm _ h)
  simp only [operandsOf, rowOperands, hformat]

end

/-- Settles O39: the format of a row of the mnemonic gives the operand list its shape. -/
theorem operandShapesOfEveryMnemonic : Obligations.OperandShapesOfEveryMnemonic := fun _ =>
  ⟨operandsOf_eq_two, operandsOf_eq_one, operandsOf_of_imul, operandsOf_eq_byteSrc, operandsOf_of_bitTest, operandsOf_of_scan_or_cmov,
    operandsOf_of_bswap, operandsOf_of_movzx_or_movsx, operandsOf_of_lea, operandsOf_of_call_or_jmp, operandsOf_of_ret, operandsOf_of_jcc,
    operandsOf_of_aad_or_aam, operandsOf_eq_none, fun _ eip h => descriptorOf_target h eip⟩

end Sys2Proof.Machine
end

section
/-! What the read-modify-write instructions on two operands write: the sums and logical results of 40_execution.md R171 to R173. -/

namespace Sys2Proof.Machine

/-! ## Flags of a result -/

@[simp] theorem commitFlags_sumFlags {n : Nat} (x : Flags) (r : Sum n) :
    commitFlags x r.flags =
      { CF := r.carry, OF := r.overflow, AF := r.adjust, SF := r.value.msb, ZF := r.value == 0#n, PF := parityFlag r.value, DF := x.DF } := rfl

@[simp] theorem commitFlags_logicFlags {n : Nat} (x : Flags) (r : BitVec n) :
    commitFlags x (logicFlags r) =
      { CF := false, OF := false, AF := x.AF, SF := r.msb, ZF := r == 0#n, PF := parityFlag r, DF := x.DF } := rfl

/-! ## Two operands -/

section
variable {i : Instr} {s : State} {w : Width} {dst : Place w} {src : Operand w} {a b : BitVec w.bits} (ho : operandsOf i = .two dst src)
  (ha : readPlace s dst = .ok a) (hb : readOperand s src = .ok b) (hw : canWrite s dst = true)
include ho ha hb hw

/-- A mnemonic whose handler is a read-modify-write of its two operands completes where both can be read and the destination written. -/
theorem exec_of_binary {f : BitVec w.bits → BitVec w.bits → Flags → BitVec w.bits × List (Flag × Bool)}
    (hf : handlerFor i.mnemonic (.two dst src) = binary f dst src) :
    ∃ t, exec i s = .next t ∧ Written s t dst (f a b s.flags).1 ∧ Advanced i s t ∧ t.flags = commitFlags s.flags (f a b s.flags).2 := by
  rw [exec_eq_perform, ho, hf]
  exact perform_binary ha hb hw

theorem exec_of_sum {f : BitVec w.bits → BitVec w.bits → Flags → Sum w.bits}
    (hf : handlerFor i.mnemonic (.two dst src) = binary (fun a b x => ((f a b x).value, (f a b x).flags)) dst src) :
    let r := f a b s.flags
    ∃ t, exec i s = .next t ∧ Written s t dst r.value ∧ Advanced i s t ∧ t.flags =
      { CF := r.carry, OF := r.overflow, AF := r.adjust, SF := r.value.msb, ZF := r.value == 0#w.bits, PF := parityFlag r.value
        DF := s.flags.DF } := by
  simpa only [commitFlags_sumFlags] using exec_of_binary ho ha hb hw hf

/-- AF is kept (R173). -/
theorem exec_of_logic {f : BitVec w.bits → BitVec w.bits → BitVec w.bits}
    (hf : handlerFor i.mnemonic (.two dst src) = binary (fun a b _ => (f a b, logicFlags (f a b))) dst src) :
    let r := f a b
    ∃ t, exec i s = .next t ∧ Written s t dst r ∧ Advanced i s t ∧ t.flags =
      { CF := false, OF := false, AF := s.flags.AF, SF := r.msb, ZF := r == 0#w.bits, PF := parityFlag r, DF := s.flags.DF } := by
  simpa only [commitFlags_logicFlags] using exec_of_binary ho ha hb hw hf

end

/-- Settles O1: ADD adds no carry, ADC adds CF, and both write what `addF` gives. -/
theorem addAndAdcWriteSumAndFlags : Obligations.AddAndAdcWriteSumAndFlags := by
  intro i s w dst src a b c hm ho ha hb hw
  obtain ⟨hm, rfl⟩ | ⟨hm, rfl⟩ := hm
  · exact exec_of_sum (f := fun a b _ => addF a b false) ho ha hb hw (by rw [hm]; rfl)
  · exact exec_of_sum (f := fun a b x => addF a b x.CF) ho ha hb hw (by rw [hm]; rfl)

/-- Settles O2: SUB subtracts no borrow, SBB subtracts CF, and both write what `subF` gives. -/
theorem subAndSbbWriteDifferenceAndFlags : Obligations.SubAndSbbWriteDifferenceAndFlags := by
  intro i s w dst src a b c hm ho ha hb hw
  obtain ⟨hm, rfl⟩ | ⟨hm, rfl⟩ := hm
  · exact exec_of_sum (f := fun a b _ => subF a b false) ho ha hb hw (by rw [hm]; rfl)
  · exact exec_of_sum (f := fun a b x => subF a b x.CF) ho ha hb hw (by rw [hm]; rfl)

/-- Settles O6: the three differ in their bitwise operation alone. -/
theorem andOrXorWriteResultAndFlags : Obligations.AndOrXorWriteResultAndFlags := by
  intro i s w dst src a b r hm ho ha hb hw
  obtain ⟨hm, rfl⟩ | ⟨hm, rfl⟩ | ⟨hm, rfl⟩ := hm
  · exact exec_of_logic ho ha hb hw (by rw [hm]; rfl)
  · exact exec_of_logic ho ha hb hw (by rw [hm]; rfl)
  · exact exec_of_logic ho ha hb hw (by rw [hm]; rfl)

end Sys2Proof.Machine
end

section
/-! The step of an instruction that is fetched and decoded (40_execution.md R160; 20_memory.md R70). -/

namespace Sys2Proof.Machine

/-- Bytes that may be fetched and decode to an instruction are fetched and decoded to it, whatever comes after them. -/
theorem fetchDecode_of_got {cfg : Config} {s : State} {n : Nat} {i : Instr} (h : s.mem.Admitted .execute s.eip.toNat n)
    (hn : n ≤ cfg.maxInsnLen) (hi : decodeWith cfg.admitTierG (bytesAt s.mem.bytes s.eip.toNat n) = .got i []) :
    fetchDecode cfg s = .ok i := by
  obtain ⟨k, hk⟩ := Nat.exists_eq_add_of_le hn
  have hdecode := (stable_decodeWith cfg.admitTierG _ (fetchRun s.mem k (s.eip.toNat + n))).1 i [] hi
  simp [fetchDecode, hk, fetchRun_add h, hdecode]

/-- Settles O50: the decoder stops at the last byte of the instruction, so the bytes fetched after it change nothing. -/
theorem stepRunsDecodedInstruction : Obligations.StepRunsDecodedInstruction := by
  intro s n i h hn hi
  rw [step, stepWith, fetchDecode_of_got h hn hi]

end Sys2Proof.Machine
end

section
/-! Memory faults of operands and stores (40_execution.md R166, R175; 20_memory.md R68): an instruction reads its memory operand before it answers,
and where it may read it stages one store to the bytes that `storesTo` names. -/

namespace Sys2Proof.Machine

/-! ## What an operand list reads and stores to -/

/-- The memory operand that a mnemonic reads on an operand list: `readsFrom`, as a function of what an instruction is made of. -/
def memoryOperand (m : Mnemonic) : Operands → Option (Width × EaExpr)
  | .one (w := w) (.mem e) => some (w, e)
  | .two (w := w) (.mem e) _ => if m = .MOV then none else some (w, e)
  | .two (w := w) _ (.place (.mem e)) => if m = .LEA then none else some (w, e)
  | .byteSrc (w := w) (.mem e) _ => some (w, e)
  | .widen (v := v) _ (.mem e) => some (v, e)
  | .three (w := w) _ (.mem e) _ => some (w, e)
  | _ => none

theorem readsFrom_eq (i : Instr) : readsFrom i = memoryOperand i.mnemonic (operandsOf i) := rfl

/-- A staged write covers the bytes of its place. -/
theorem stage_mems {w : Width} {s : State} {d : Place w} {a k : Nat} (h : placeBytes s d = some (a, k)) (v : BitVec w.bits) :
    (stage s d v).mems = [⟨a, k, v.toNat⟩] := by
  cases d with
  | reg x => cases h
  | mem e => cases h; rfl

/-- The memory operand that a place is, if it is one. -/
def Place.memory {w : Width} : Place w → Option (Width × EaExpr)
  | .reg _ => none
  | .mem e => some (w, e)

/-! ## Operands that cannot fault -/

/-- Reading the operand faults in no state: it is not in memory. -/
def Operand.NeverFaults {w : Width} (x : Operand w) : Prop := ∀ s, ∃ v, readOperand s x = .ok v

theorem neverFaults_reg {w : Width} (x : View w) : (Operand.place (.reg x)).NeverFaults := fun _ => ⟨_, rfl⟩

theorem neverFaults_imm {w : Width} (v : BitVec w.bits) : (Operand.imm v).NeverFaults := fun _ => ⟨v, rfl⟩

/-- No format has two operands in memory (30_encoding.md R115). -/
theorem reg_or_neverFaults {i : Instr} {w : Width} {d : Place w} {src : Operand w} (ho : operandsOf i = .two d src) :
    (∃ x, d = .reg x) ∨ src.NeverFaults := by
  unfold operandsOf rowOperands at ho
  cases hr : i.form.row.format <;> simp only [hr] at ho
  case MR | TD => cases ho; exact .inr (neverFaults_reg _)
  case RM => split at ho <;> cases ho; exact .inl ⟨_, rfl⟩
  case MI => split at ho <;> cases ho; exact .inr (neverFaults_imm _)
  case I | OI | FD => cases ho; exact .inl ⟨_, rfl⟩
  all_goals cases ho

theorem neverFaults_of_byteSrc {i : Instr} {w : Width} {d : Place w} {src : Operand .w8} (ho : operandsOf i = .byteSrc d src) :
    src.NeverFaults := by
  unfold operandsOf rowOperands at ho
  cases hr : i.form.row.format <;> simp only [hr] at ho
  case M1 => cases ho; exact neverFaults_imm _
  case MC => cases ho; exact neverFaults_reg _
  case MI => split at ho <;> cases ho; exact neverFaults_imm _
  case RM => split at ho <;> cases ho
  all_goals cases ho

/-! ## What a handler reads and stores to -/

/-- The answer stages one write, to the bytes that the mnemonic stores to on the operand list, where there are any. -/
def StagesStore (r : Except Fault Effect) (m : Mnemonic) (o : Operands) (s : State) : Prop :=
  ∀ a k, storedBytes m o s = some (a, k) → ∃ x v, r = .ok x ∧ x.mems = [⟨a, k, v⟩]

/-- What a handler does with the memory operand of a mnemonic on an operand list: the fault of a read that fails is its answer, and where the
read succeeds it answers with the store. -/
structure Handler.Accesses (h : Handler) (m : Mnemonic) (o : Operands) (s : State) : Prop where
  fault : ∀ w e f, memoryOperand m o = some (w, e) → memRead s.mem w (e.address s.regs) = .error f → ∀ next, h s next = .error f
  store : (∀ w e, memoryOperand m o = some (w, e) → ∃ v, memRead s.mem w (e.address s.regs) = .ok v) → ∀ next, StagesStore (h s next) m o s

section
variable {m : Mnemonic} {o : Operands} {s : State} {w : Width} {d : Place w}

theorem stagesStore_of_none {r : Except Fault Effect} (h : storedBytes m o s = none) : StagesStore r m o s := by
  simp [StagesStore, h]

theorem stagesStore_of_stage {x : Effect} {b : BitVec w.bits} (hm : m ≠ .CALL) (hd : destination m o = some ⟨w, d⟩)
    (hx : x.mems = (stage s d b).mems) : StagesStore (.ok x) m o s := by
  intro a k h
  rw [storedBytes, if_neg hm, hd] at h
  exact ⟨x, b.toNat, rfl, hx.trans (stage_mems h b)⟩

theorem stagesStore_of_push {x : Effect} (v : Word) (hx : x.mems = (push s v).mems) : StagesStore (.ok x) .CALL o s := by
  rintro a k ⟨⟩
  exact ⟨x, v.toNat, rfl, hx⟩

theorem stagesStore_ite {c : Prop} [Decidable c] {x y : Except Fault Effect} (hx : StagesStore x m o s) (hy : StagesStore y m o s) :
    StagesStore (if c then x else y) m o s := by
  split
  · exact hx
  · exact hy

theorem stagesStore_bind {α : Type} {x : Except Fault α} {k : α → Except Fault Effect} (hx : ∃ a, x = .ok a)
    (hk : ∀ a, StagesStore (k a) m o s) : StagesStore (x >>= k) m o s := by
  obtain ⟨a, rfl⟩ := hx
  exact hk a

/-- A handler that reads no memory operand. -/
theorem accesses_of_no_read {h : Handler} (hr : memoryOperand m o = none) (hk : ∀ next, StagesStore (h s next) m o s) : h.Accesses m o s where
  fault := by simp [hr]
  store _ := hk

theorem accesses_of_no_memory {h : Handler} (hr : memoryOperand m o = none) (hs : storedBytes m o s = none) : h.Accesses m o s :=
  accesses_of_no_read hr fun _ => stagesStore_of_none hs

/-- A handler that reads the place that may be the memory operand, and goes on. -/
theorem accesses_place {k : BitVec w.bits → Handler} (hr : memoryOperand m o = d.memory) (hk : ∀ a next, StagesStore (k a s next) m o s) :
    Handler.Accesses (fun s next => readPlace s d >>= fun a => k a s next) m o s := by
  cases d with
  | reg x => exact accesses_of_no_read hr (hk _)
  | mem e =>
    refine ⟨fun v e f hv hf next => ?_, fun hread next => stagesStore_bind (hread _ _ hr) fun a => hk a next⟩
    cases hr.symm.trans hv
    simp [readPlace, hf]

/-- A handler that reads its one operand and goes on. -/
theorem accesses_one {k : BitVec w.bits → Handler} (hk : ∀ a next, StagesStore (k a s next) m (.one d) s) :
    Handler.Accesses (fun s next => readPlace s d >>= fun a => k a s next) m (.one d) s :=
  accesses_place (by cases d <;> rfl) hk

/-- A handler that reads its source, with a register as its destination, and goes on. -/
theorem accesses_source {x : View w} {src : Operand w} {k : BitVec w.bits → Handler} (hm : m ≠ .LEA)
    (hk : ∀ b next, StagesStore (k b s next) m (.two (.reg x) src) s) :
    Handler.Accesses (fun s next => readOperand s src >>= fun b => k b s next) m (.two (.reg x) src) s := by
  rcases src with p | v
  · refine accesses_place (d := p) ?_ hk
    cases p <;> simp [memoryOperand, Place.memory, hm]
  · exact accesses_of_no_read rfl (hk v)

/-- A handler that reads both its operands, only one of which may be in memory, and goes on. -/
theorem accesses_two {src : Operand w} {k : BitVec w.bits → BitVec w.bits → Handler} (hm : m ≠ .MOV ∧ m ≠ .LEA)
    (hone : (∃ x, d = .reg x) ∨ src.NeverFaults) (hk : ∀ a b next, StagesStore (k a b s next) m (.two d src) s) :
    Handler.Accesses (fun s next => readPlace s d >>= fun a => readOperand s src >>= fun b => k a b s next) m (.two d src) s := by
  rcases d with x | e
  · exact accesses_source hm.2 (hk _)
  · exact accesses_place (if_neg hm.1) fun a next => stagesStore_bind (hone.resolve_left (by simp) s) fun b => hk a b next

/-- A handler that reads its destination, then a byte that is not in memory, and goes on. -/
theorem accesses_byteSrc {c : Operand .w8} {k : BitVec w.bits → Byte → Handler} (hc : c.NeverFaults)
    (hk : ∀ a b next, StagesStore (k a b s next) m (.byteSrc d c) s) :
    Handler.Accesses (fun s next => readPlace s d >>= fun a => readOperand s c >>= fun b => k a b s next) m (.byteSrc d c) s := by
  refine accesses_place ?_ fun a next => stagesStore_bind (hc s) fun b => hk a b next
  cases d <;> rfl

/-- MOV reads its source alone: a destination in memory is only written. -/
theorem movH_accesses {src : Operand w} (hone : (∃ x, d = .reg x) ∨ src.NeverFaults) : (movH d src).Accesses .MOV (.two d src) s := by
  rcases d with x | e
  · exact accesses_source (by decide) fun _ _ => stagesStore_of_none rfl
  · exact accesses_of_no_read rfl fun _ => stagesStore_bind (hone.resolve_left (by simp) s) fun _ => stagesStore_of_stage (by decide) rfl rfl

end

/-! ## Every mnemonic -/

/-- Every handler accesses memory as its mnemonic and operand list say. -/
theorem handlerFor_accesses (i : Instr) (s : State) : (handlerFor i.mnemonic (operandsOf i)).Accesses i.mnemonic (operandsOf i) s := by
  cases hm : i.mnemonic
  case ADD | ADC | SUB | SBB | AND | OR | XOR =>
    obtain ⟨w, d, src, ho⟩ := operandsOf_eq_two (i := i) (by simp [hm])
    rw [ho]
    exact accesses_two (by decide) (reg_or_neverFaults ho) fun _ _ _ => stagesStore_of_stage (by decide) rfl rfl
  case CMP | TEST =>
    obtain ⟨w, d, src, ho⟩ := operandsOf_eq_two (i := i) (by simp [hm])
    rw [ho]
    exact accesses_two (by decide) (reg_or_neverFaults ho) fun _ _ _ => stagesStore_of_none rfl
  case MOV =>
    obtain ⟨w, d, src, ho⟩ := operandsOf_eq_two (i := i) (by simp [hm])
    rw [ho]
    exact movH_accesses (reg_or_neverFaults ho)
  case INC | DEC | NEG | NOT =>
    obtain ⟨w, d, ho⟩ := operandsOf_eq_one (i := i) (by simp [hm])
    rw [ho]
    exact accesses_one fun _ _ => stagesStore_of_stage (by decide) rfl rfl
  case MUL | DIV | IDIV =>
    obtain ⟨w, d, ho⟩ := operandsOf_eq_one (i := i) (by simp [hm])
    rw [ho]
    exact accesses_one fun _ _ => stagesStore_of_none rfl
  case ROL | ROR | RCL | RCR | SHL | SHR | SAR =>
    obtain ⟨w, d, c, ho⟩ := operandsOf_eq_byteSrc (i := i) (by simp [hm])
    rw [ho]
    exact accesses_byteSrc (neverFaults_of_byteSrc ho) fun _ _ _ =>
      stagesStore_ite (stagesStore_of_stage (by decide) rfl rfl) (stagesStore_of_stage (by decide) rfl rfl)
  case BT =>
    obtain ⟨w, d, idx, ho⟩ | ⟨w, d, idx, ho⟩ := operandsOf_of_bitTest (i := i) (by simp [hm])
    all_goals rw [ho]
    · exact accesses_two (by decide) (reg_or_neverFaults ho) fun _ _ _ => stagesStore_of_none rfl
    · exact accesses_byteSrc (neverFaults_of_byteSrc ho) fun _ _ _ => stagesStore_of_none rfl
  case BTS | BTR | BTC =>
    obtain ⟨w, d, idx, ho⟩ | ⟨w, d, idx, ho⟩ := operandsOf_of_bitTest (i := i) (by simp [hm])
    all_goals rw [ho]
    · exact accesses_two (by decide) (reg_or_neverFaults ho) fun _ _ _ => stagesStore_of_stage (by decide) rfl rfl
    · exact accesses_byteSrc (neverFaults_of_byteSrc ho) fun _ _ _ => stagesStore_of_stage (by decide) rfl rfl
  case IMUL =>
    obtain ⟨w, d, ho⟩ | ⟨w, x, src, ho⟩ | ⟨w, x, src, c, ho⟩ := operandsOf_of_imul hm
    all_goals rw [ho]
    · exact accesses_one fun _ _ => stagesStore_of_none rfl
    · exact accesses_two (by decide) (.inl ⟨x, rfl⟩) fun _ _ _ => stagesStore_of_none rfl
    · exact accesses_place (by cases src <;> rfl) fun _ _ => stagesStore_of_none rfl
  case LEA =>
    obtain ⟨w, x, e, ho⟩ := operandsOf_of_lea hm
    rw [ho]
    exact accesses_of_no_memory rfl rfl
  case BSF | BSR | CMOVO | CMOVNO | CMOVB | CMOVAE | CMOVE | CMOVNE | CMOVBE | CMOVA | CMOVS | CMOVNS | CMOVP | CMOVNP | CMOVL | CMOVGE
      | CMOVLE | CMOVG =>
    obtain ⟨w, x, src, ho⟩ := operandsOf_of_scan_or_cmov (i := i) (by simp [hm, cmovCond])
    rw [ho]
    exact accesses_source (by decide) fun _ _ => stagesStore_of_none rfl
  case BSWAP =>
    obtain ⟨r, ho⟩ := operandsOf_of_bswap hm
    rw [ho]
    exact accesses_of_no_memory rfl rfl
  case MOVZX | MOVSX =>
    obtain ⟨w, v, x, src, -, ho⟩ := operandsOf_of_movzx_or_movsx (i := i) (by simp [hm])
    rw [ho]
    exact accesses_place (by cases src <;> rfl) fun _ _ => stagesStore_of_none rfl
  case CALL =>
    obtain ⟨disp, ho⟩ | ⟨src, ho⟩ := operandsOf_of_call_or_jmp (.inl hm)
    all_goals rw [ho]
    · exact accesses_of_no_read rfl fun next => stagesStore_of_push next rfl
    · exact accesses_one fun _ next => stagesStore_of_push next rfl
  case JMP =>
    obtain ⟨disp, ho⟩ | ⟨src, ho⟩ := operandsOf_of_call_or_jmp (.inr hm)
    all_goals rw [ho]
    · exact accesses_of_no_memory rfl rfl
    · exact accesses_one fun _ _ => stagesStore_of_none rfl
  case RET =>
    obtain ho | ⟨n, ho⟩ := operandsOf_of_ret hm
    all_goals
      rw [ho]
      exact accesses_of_no_memory rfl rfl
  case AAD | AAM =>
    obtain ⟨base, ho⟩ := operandsOf_of_aad_or_aam (i := i) (by simp [hm])
    rw [ho]
    exact accesses_of_no_memory rfl rfl
  case CBW | CWDE | CWD | CDQ | CMPSB | CMPSW | CMPSD | CLC | STC | CMC | CLD | STD =>
    rw [operandsOf_eq_none (i := i) (by simp [hm])]
    exact accesses_of_no_memory rfl rfl
  case JO | JNO | JB | JAE | JE | JNE | JBE | JA | JS | JNS | JP | JNP | JL | JGE | JLE | JG =>
    obtain ⟨disp, ho⟩ := operandsOf_of_jcc (i := i) (by simp [hm, jccCond])
    rw [ho]
    exact accesses_of_no_memory rfl rfl

/-! ## The faults -/

theorem readsOk_iff (i : Instr) (s : State) :
    readsOk i s = true ↔ ∀ w e, readsFrom i = some (w, e) → s.mem.Admitted .read (e.address s.regs).toNat w.bytes := by
  rcases h : readsFrom i with _ | ⟨w, e⟩ <;> simp [readsOk, h]

theorem exec_eq_fault_of_read {i : Instr} {s : State} {w : Width} {e : EaExpr} {f : Fault} (hr : readsFrom i = some (w, e))
    (hf : memRead s.mem w (e.address s.regs) = .error f) : exec i s = .fault f := by
  rw [readsFrom_eq] at hr
  rw [exec_eq_perform]
  exact perform_error ((handlerFor_accesses i s).fault w e f hr hf _)

/-- The store is staged, so its check decides (R175). -/
theorem exec_eq_fault_of_store {i : Instr} {s : State} {a n : Nat} {f : Fault} (hs : storesTo i s = some (a, n)) (hr : readsOk i s = true)
    (hf : s.mem.check .write a n = some f) : exec i s = .fault f := by
  rw [storesTo_eq] at hs
  obtain ⟨x, v, hx, hmems⟩ := (handlerFor_accesses i s).store
    (fun w e h => ⟨_, memRead_admitted ((readsOk_iff i s).1 hr w e ((readsFrom_eq i).trans h))⟩) (nextIp i s) a n hs
  rw [exec_eq_perform]
  exact perform_fault.2 (.inr ⟨x, hx, by rw [hmems, validate_one, hf]⟩)

theorem exec_eq_fault_of_ret {i : Instr} {s : State} {f : Fault} (hm : i.mnemonic = .RET) (hf : memRead s.mem .w32 s.regs.esp = .error f) :
    exec i s = .fault f := by
  rw [exec_eq_perform, hm]
  obtain ho | ⟨n, ho⟩ := operandsOf_of_ret hm
  all_goals
    rw [ho]
    exact perform_error (by simp [handlerFor, onRet, retH, hf])

theorem handlerFor_of_cmpsWidth {m : Mnemonic} {w : Width} (o : Operands) : cmpsWidth m = some w → handlerFor m o = cmpsH w := by
  cases m <;> rintro ⟨⟩ <;> rfl

theorem exec_of_cmps {i : Instr} {w : Width} (hw : cmpsWidth i.mnemonic = some w) (s : State) : exec i s = perform i (cmpsH w) s := by
  rw [exec_eq_perform, handlerFor_of_cmpsWidth _ hw]

/-- Settles O53: a read comes before everything else a handler does, and the check of the staged store after it. -/
theorem operandFaultsAtFirstByte : Obligations.OperandFaultsAtFirstByte := by
  intro i s f
  refine ⟨fun w e => exec_eq_fault_of_read, fun a n j hs hr hj hbelow h => ?_, exec_eq_fault_of_ret, fun w hw => ?_⟩
  · exact exec_eq_fault_of_store hs hr (AddressSpace.check_of_first hj hbelow h)
  · rw [exec_of_cmps hw]
    exact ⟨fun hf => perform_error (by simp [cmpsH, hf]), fun a ha hf => perform_error (by simp [cmpsH, ha, hf])⟩

end Sys2Proof.Machine
end

section
/-! What the one-operand sums and the compares write (41_arithmetic.md R203 to R205, R208), and how the predicates read a difference (R209). -/

namespace Sys2Proof.Machine

/-! ## Sums and differences without a carry in -/

section
variable {n : Nat} (a b : BitVec n)

@[simp] theorem addF_value : (addF a b false).value = a + b := by simp [addF, BitVec.ofNat_add]

@[simp] theorem subF_value : (subF a b false).value = a - b := by
  simp [subF, Int.sub_eq_add_neg, BitVec.ofInt_add, BitVec.ofInt_neg, BitVec.sub_eq_add_neg]

@[simp] theorem subF_carry : (subF a b false).carry = decide (a.toNat < b.toNat) := rfl

theorem addF_overflow : (addF a b false).overflow = a.saddOverflow b := by
  rw [BitVec.saddOverflow_eq, ← addF_value]
  rfl

theorem subF_overflow : (subF a b false).overflow = a.ssubOverflow b := by
  rw [BitVec.ssubOverflow_eq, ← subF_value]
  change (a.msb != b.msb && (subF a b false).value.msb != a.msb) = _
  cases a.msb <;> cases b.msb <;> simp

/-- The adjust flag of a sum is the carry into bit 4. -/
theorem addF_adjust (h : 4 < n) : (addF a b false).adjust = decide (16 ≤ a.toNat % 16 + b.toNat % 16) := by
  change (a ^^^ b ^^^ (addF a b false).value).getLsbD 4 = BitVec.carry 4 a b false
  rw [addF_value, BitVec.getLsbD_xor, BitVec.getLsbD_xor, BitVec.getLsbD_add h]
  cases a.getLsbD 4 <;> cases b.getLsbD 4 <;> simp

/-- The adjust flag of a difference is the carry into bit 4 where the difference and `b` add up to `a` again. -/
theorem subF_adjust (h : 4 < n) : (subF a b false).adjust = decide (a.toNat % 16 < b.toNat % 16) := by
  have hsum : (subF a b false).adjust = (addF (a - b) b false).adjust := by
    change (a ^^^ b ^^^ (subF a b false).value).getLsbD 4 = (a - b ^^^ b ^^^ (addF (a - b) b false).value).getLsbD 4
    rw [subF_value, addF_value, BitVec.sub_add_cancel, BitVec.xor_comm, BitVec.xor_comm a, BitVec.xor_assoc]
  have hback : a.toNat % 16 = ((a - b).toNat % 16 + b.toNat % 16) % 16 := by
    have hdvd : 16 ∣ 2 ^ n := Nat.pow_dvd_pow 2 h.le
    conv_lhs => rw [← BitVec.sub_add_cancel a b, BitVec.toNat_add, Nat.mod_mod_of_dvd _ hdvd, Nat.add_mod]
  rw [hsum, addF_adjust _ _ h, decide_eq_decide]
  omega

/-- SF and OF of a difference tell the signed order (R209). -/
theorem msb_sub_bne_overflow : ((a - b).msb != (subF a b false).overflow) = decide (a.toInt < b.toInt) := by
  by_cases hsign : a.msb = b.msb
  · have hfits : a.ssubOverflow b = false := by
      rw [BitVec.ssubOverflow_eq, hsign]
      cases b.msb <;> simp
    have hdiff : (a - b).toInt = a.toInt - b.toInt := BitVec.toInt_sub_of_not_ssubOverflow (by simp [hfits])
    rw [subF_overflow, hfits, Bool.bne_false, BitVec.msb_eq_toInt, hdiff, decide_eq_decide]
    omega
  · have hmsb : ((a - b).msb != a.ssubOverflow b) = a.msb := by
      rw [BitVec.ssubOverflow_eq, Bool.eq_not_of_ne hsign]
      cases b.msb <;> simp
    rw [BitVec.msb_eq_toInt, BitVec.msb_eq_toInt, decide_eq_decide] at hsign
    rw [subF_overflow, hmsb, BitVec.msb_eq_toInt, decide_eq_decide]
    omega

end

/-! ## Overflow at the ends of the signed range -/

section
variable {w : Width} (a : BitVec w.bits)

theorem four_lt_bits (w : Width) : 4 < w.bits := by cases w <;> decide

theorem one_toNat (w : Width) : (1#w.bits).toNat = 1 := by cases w <;> rfl

theorem one_toInt (w : Width) : (1#w.bits).toInt = 1 := by cases w <;> rfl

theorem saddOverflow_one : a.saddOverflow 1#w.bits = decide (a.toNat = 2 ^ (w.bits - 1) - 1) := by
  rw [BitVec.saddOverflow, one_toInt, BitVec.toInt_eq_toNat_cond, ← Bool.decide_or, decide_eq_decide]
  cases w <;> simp only [Width.bits] <;> omega

theorem ssubOverflow_one : a.ssubOverflow 1#w.bits = decide (a.toNat = 2 ^ (w.bits - 1)) := by
  rw [BitVec.ssubOverflow, one_toInt, BitVec.toInt_eq_toNat_cond, ← Bool.decide_or, decide_eq_decide]
  cases w <;> simp only [Width.bits] <;> omega

theorem zero_ssubOverflow : (0#w.bits).ssubOverflow a = decide (a.toNat = 2 ^ (w.bits - 1)) := by
  rw [BitVec.ssubOverflow, BitVec.toInt_zero, BitVec.toInt_eq_toNat_cond, ← Bool.decide_or, decide_eq_decide]
  cases w <;> simp only [Width.bits] <;> omega

end

/-! ## The flags of each instruction -/

theorem commitFlags_flagsKeepCarry {n : Nat} (x : Flags) (r : Sum n) :
    commitFlags x r.flagsKeepCarry =
      { CF := x.CF, OF := r.overflow, AF := r.adjust, SF := r.value.msb, ZF := r.value == 0#n, PF := parityFlag r.value, DF := x.DF } := rfl

/-- CMP (R203). -/
theorem commitFlags_sub {n : Nat} (x : Flags) (a b : BitVec n) :
    commitFlags x (subF a b false).flags =
      { CF := decide (a.toNat < b.toNat)
        OF := a.msb != b.msb && (a - b).msb != a.msb
        AF := (a ^^^ b ^^^ (a - b)).getLsbD 4
        SF := (a - b).msb, ZF := a == b, PF := parityFlag (a - b), DF := x.DF } := by
  have hzero : (a - b == 0#n) = (a == b) := by simp [Bool.beq_eq_decide_eq, BitVec.sub_eq_iff_eq_add]
  rw [commitFlags_sumFlags, subF_carry, subF_value, hzero, ← subF_value]
  rfl

section
variable {w : Width} (x : Flags) (a : BitVec w.bits)

/-- INC (R204). -/
theorem commitFlags_inc :
    commitFlags x (addF a 1#w.bits false).flagsKeepCarry =
      { CF := x.CF, OF := decide (a.toNat = 2 ^ (w.bits - 1) - 1), AF := decide (a.toNat % 16 = 15)
        SF := (a + 1#w.bits).msb, ZF := a + 1#w.bits == 0#w.bits, PF := parityFlag (a + 1#w.bits), DF := x.DF } := by
  have hadjust : (addF a 1#w.bits false).adjust = decide (a.toNat % 16 = 15) := by
    rw [addF_adjust _ _ (four_lt_bits w), one_toNat, decide_eq_decide]
    omega
  rw [commitFlags_flagsKeepCarry, addF_value, addF_overflow, saddOverflow_one, hadjust]

/-- DEC (R205). -/
theorem commitFlags_dec :
    commitFlags x (subF a 1#w.bits false).flagsKeepCarry =
      { CF := x.CF, OF := decide (a.toNat = 2 ^ (w.bits - 1)), AF := decide (a.toNat % 16 = 0)
        SF := (a - 1#w.bits).msb, ZF := a - 1#w.bits == 0#w.bits, PF := parityFlag (a - 1#w.bits), DF := x.DF } := by
  have hadjust : (subF a 1#w.bits false).adjust = decide (a.toNat % 16 = 0) := by
    rw [subF_adjust _ _ (four_lt_bits w), one_toNat, decide_eq_decide]
    omega
  rw [commitFlags_flagsKeepCarry, subF_value, subF_overflow, ssubOverflow_one, hadjust]

/-- NEG (R208). -/
theorem commitFlags_neg :
    commitFlags x (subF 0#w.bits a false).flags =
      { CF := decide (a.toNat ≠ 0), OF := decide (a.toNat = 2 ^ (w.bits - 1)), AF := decide (a.toNat % 16 ≠ 0)
        SF := (-a).msb, ZF := -a == 0#w.bits, PF := parityFlag (-a), DF := x.DF } := by
  have hcarry : (subF 0#w.bits a false).carry = decide (a.toNat ≠ 0) := by simp [Nat.pos_iff_ne_zero]
  have hadjust : (subF 0#w.bits a false).adjust = decide (a.toNat % 16 ≠ 0) := by
    simp [subF_adjust _ _ (four_lt_bits w), Nat.pos_iff_ne_zero]
  rw [commitFlags_sumFlags, subF_value, BitVec.zero_sub, subF_overflow, zero_ssubOverflow, hcarry, hadjust]

end

/-! ## The instructions -/

section
variable {i : Instr} {s : State} {w : Width} {dst : Place w} {a : BitVec w.bits} (ha : readPlace s dst = .ok a)
include ha

/-- A mnemonic whose handler computes on its one operand completes where that can be read and written. -/
theorem exec_of_unary (ho : operandsOf i = .one dst) (hw : canWrite s dst = true) {f : BitVec w.bits → BitVec w.bits × List (Flag × Bool)}
    (hf : handlerFor i.mnemonic (.one dst) = unary f dst) :
    ∃ t, exec i s = .next t ∧ Written s t dst (f a).1 ∧ Advanced i s t ∧ t.flags = commitFlags s.flags (f a).2 := by
  rw [exec_eq_perform, ho, hf]
  exact perform_unary ha hw

/-- A mnemonic whose handler compares its two operands completes where both can be read. -/
theorem exec_of_compare {src : Operand w} {b : BitVec w.bits} (ho : operandsOf i = .two dst src) (hb : readOperand s src = .ok b)
    {f : BitVec w.bits → BitVec w.bits → List (Flag × Bool)} (hf : handlerFor i.mnemonic (.two dst src) = compare f dst src) :
    ∃ t, exec i s = .next t ∧ t.regs = s.regs ∧ SameMemory s t ∧ Advanced i s t ∧ t.flags = commitFlags s.flags (f a b) := by
  rw [exec_eq_perform, ho, hf]
  exact perform_compare ha hb

end

/-- Settles O3: CMP compares by `subF` without a borrow. -/
theorem cmpWritesFlagsOnly : Obligations.CmpWritesFlagsOnly := by
  intro i s w dst src a b hm ho ha hb
  rw [← commitFlags_sub]
  exact exec_of_compare ha ho hb (f := fun a b => (subF a b false).flags) (by rw [hm]; rfl)

/-- Settles O4: the overflow and the carry into bit 4 are at the ends of their ranges. -/
theorem incAndDecKeepCarry : Obligations.IncAndDecKeepCarry := by
  intro i s w dst a ho ha hw
  constructor
  · intro hm
    rw [← commitFlags_inc, ← addF_value]
    exact exec_of_unary ha ho hw (f := fun a => ((addF a 1#w.bits false).value, (addF a 1#w.bits false).flagsKeepCarry)) (by rw [hm]; rfl)
  · intro hm
    rw [← commitFlags_dec, ← subF_value]
    exact exec_of_unary ha ho hw (f := fun a => ((subF a 1#w.bits false).value, (subF a 1#w.bits false).flagsKeepCarry)) (by rw [hm]; rfl)

/-- Settles O5: NEG subtracts its operand from 0 by `subF`. -/
theorem negWritesNegationAndFlags : Obligations.NegWritesNegationAndFlags := by
  intro i s w dst a hm ho ha hw
  rw [← commitFlags_neg, ← BitVec.zero_sub, ← subF_value]
  exact exec_of_unary ha ho hw (f := fun a => ((subF 0#w.bits a false).value, (subF 0#w.bits a false).flags)) (by rw [hm]; rfl)

/-! ## Predicates after a difference -/

/-- Less and equal give the other three comparisons. -/
theorem decide_order {α : Type} [LinearOrder α] (u v : α) :
    (!decide (u < v)) = decide (v ≤ u) ∧ (decide (u < v) || decide (u = v)) = decide (u ≤ v) ∧
      (decide (v ≤ u) && !decide (u = v)) = decide (v < u) := by
  refine ⟨?_, ?_, ?_⟩
  · rw [← decide_not, decide_eq_decide, not_lt]
  · rw [← Bool.decide_or, decide_eq_decide, le_iff_lt_or_eq]
  · rw [← decide_not, ← Bool.decide_and, decide_eq_decide, lt_iff_le_and_ne, ne_comm]

section
variable {n : Nat} {x : Flags} {a b : BitVec n} (hz : x.ZF = decide (a = b))
include hz

/-- CF says below (R320). -/
theorem pred_unsigned (hc : x.CF = decide (a.toNat < b.toNat)) :
    pred x .B = decide (a.toNat < b.toNat) ∧ pred x .AE = decide (b.toNat ≤ a.toNat) ∧
      pred x .BE = decide (a.toNat ≤ b.toNat) ∧ pred x .A = decide (b.toNat < a.toNat) := by
  obtain ⟨hge, hle, hgt⟩ := decide_order a.toNat b.toNat
  simp only [BitVec.toNat_inj] at hle hgt
  simp only [pred, hc, hz, hge, hle, hgt, and_self]

/-- SF that differs from OF says less (R320). -/
theorem pred_signed (hs : (x.SF != x.OF) = decide (a.toInt < b.toInt)) :
    pred x .L = decide (a.toInt < b.toInt) ∧ pred x .GE = decide (b.toInt ≤ a.toInt) ∧
      pred x .LE = decide (a.toInt ≤ b.toInt) ∧ pred x .G = decide (b.toInt < a.toInt) := by
  obtain ⟨hge, hle, hgt⟩ := decide_order a.toInt b.toInt
  have hsame : (x.SF == x.OF) = !decide (a.toInt < b.toInt) := by rw [← hs, bne, Bool.not_not]
  simp only [BitVec.toInt_inj] at hle hgt
  rw [Bool.or_comm] at hle
  rw [Bool.and_comm] at hgt
  simp only [pred, hs, hsame, hz, hge, hle, hgt, and_self]

end

/-- Settles O57: CMP leaves the flags of `a - b`, in which CF says below, SF and OF say less, and ZF says equal. -/
theorem predicatesAfterCmpCompare : Obligations.PredicatesAfterCmpCompare := by
  intro i s t w dst src a b hm ho ha hb hnext
  obtain ⟨t', ht, -, -, -, hflags⟩ := cmpWritesFlagsOnly i s w dst src a b hm ho ha hb
  obtain rfl : t' = t := by simpa [ht] using hnext
  have hz : t'.flags.ZF = decide (a = b) := by rw [hflags, ← Bool.beq_eq_decide_eq]
  have hc : t'.flags.CF = decide (a.toNat < b.toNat) := by rw [hflags]
  have hs : (t'.flags.SF != t'.flags.OF) = decide (a.toInt < b.toInt) := by
    rw [hflags, ← msb_sub_bne_overflow, ← subF_value]
    rfl
  obtain ⟨hB, hAE, hBE, hA⟩ := pred_unsigned hz hc
  exact ⟨hz, by simp [pred, hz], hB, hAE, hBE, hA, pred_signed hz hs⟩

end Sys2Proof.Machine
end

section
/-! The logical instructions beside AND, OR and XOR: TEST, which keeps only the flags, and NOT, which writes none (42_logical.md R233, R234). -/

namespace Sys2Proof.Machine

/-- Settles O7: TEST computes the flags of AND and stages no write. -/
theorem testWritesFlagsOnly : Obligations.TestWritesFlagsOnly := by
  intro i s w dst src a b hm ho ha hb
  rw [← commitFlags_logicFlags]
  exact exec_of_compare ha ho hb (f := fun a b => logicFlags (a &&& b)) (by rw [hm]; rfl)

/-- Settles O8: NOT is XOR with all ones, and its list of flags is empty. -/
theorem notComplementsAndKeepsFlags : Obligations.NotComplementsAndKeepsFlags := by
  intro i s w dst a hm ho ha hw
  rw [← BitVec.xor_allOnes, ← commitFlags_nil s.flags]
  exact exec_of_unary ha ho hw (f := fun a => (a ^^^ BitVec.allOnes w.bits, [])) (by rw [hm]; rfl)

end Sys2Proof.Machine
end

section
/-! Multiplication and division (43_multiply_divide.md R250 to R255): the 2w-bit place and its two halves, which bits the writes of a product or
of a quotient and remainder keep, and when a product fits. -/

namespace Sys2Proof.Machine

/-! ## Bits that register writes keep -/

/-- A bit that no written view covers is kept. -/
theorem getLsbD_get_writeView {w : Width} (x : RegFile) {v : View w} (b : BitVec w.bits) {r : Reg} {k : Nat}
    (h : v.cell = r → v.covers k = false) : ((x.writeView v b).get r).getLsbD k = (x.get r).getLsbD k := by
  by_cases hr : v.cell = r
  · subst hr
    exact getLsbD_writeView _ _ _ (h rfl)
  · rw [get_writeView_of_ne _ _ _ (Ne.symm hr)]

theorem getLsbD_get_commitRegs {x : RegFile} {ws : List RegWrite} {r : Reg} {k : Nat}
    (h : ∀ w ∈ ws, w.view.cell = r → w.view.covers k = false) : ((commitRegs x ws).get r).getLsbD k = (x.get r).getLsbD k := by
  induction ws generalizing x with
  | nil => rfl
  | cons w ws ih =>
    obtain ⟨hw, hws⟩ := List.forall_mem_cons.1 h
    rw [commitRegs_cons, ih hws, getLsbD_get_writeView _ _ hw]

/-- A view reads the bits it covers (10_state.md R31). -/
theorem readView_congr {w : Width} {x y : RegFile} {u : View w}
    (h : ∀ k, u.covers k = true → (x.get u.cell).getLsbD k = (y.get u.cell).getLsbD k) : x.readView u = y.readView u := by
  apply BitVec.eq_of_getLsbD_eq
  intro i hi
  cases u with
  | b r =>
    have hi : i < 8 := hi
    cases hr : isHigh8 r
    · simpa [RegFile.readView, View.cell, hr, hi] using h i (by simp [View.covers, hr, hi])
    · simpa [RegFile.readView, View.cell, hr, hi] using h (8 + i) (by simp [View.covers, hr]; omega)
  | w r => simpa [RegFile.readView, View.cell, hi] using h i (by simp [View.covers, hi])
  | d r => exact h i rfl

/-- The views share no bit of a cell (10_state.md R31). -/
def View.Apart {w w' : Width} (u : View w) (v : View w') : Prop := ∀ k, u.covers k = true → v.cell = u.cell → v.covers k = false

theorem View.apart_of_cell_ne {w w' : Width} {u : View w} {v : View w'} (h : v.cell ≠ u.cell) : u.Apart v :=
  fun _ _ hcell => absurd hcell h

theorem View.apart_al_ah : (View.b .al).Apart (.b .ah) := by
  intro k
  simp [View.covers, isHigh8]
  omega

/-- Views that are written one after the other and share no bit hold what each was given. -/
theorem readView_of_apart {w w' : Width} (x : RegFile) {u : View w} {v : View w'} (h : u.Apart v) (a : BitVec w.bits) (b : BitVec w'.bits) :
    ((x.writeView u a).writeView v b).readView u = a ∧ ((x.writeView u a).writeView v b).readView v = b := by
  refine ⟨?_, readView_writeView_self _ v b⟩
  rw [readView_congr fun k hk => getLsbD_get_writeView _ b (h k hk), readView_writeView_self]

/-! ## The two places of width w in EAX and EDX -/

/-- Register writes that stay in the 2w-bit place: in its cells, and below width 32 in their low halves. -/
structure StayWide (w : Width) (ws : List RegWrite) : Prop where
  cells : ∀ x ∈ ws, x.view.cell ∈ wideCells (some w)
  widths : w ≠ .w32 → ∀ x ∈ ws, x.width ≠ .w32

theorem stayWide_writeProduct (w : Width) (p : Nat) : StayWide w (writeProduct w p) where
  cells := writeProduct_cells (some w) p
  widths := by cases w <;> simp [writeProduct]

theorem stayWide_writeQuotient (w : Width) (q r : BitVec w.bits) : StayWide w (writeQuotient w q r) where
  cells := writeQuotient_cells (some w) q r
  widths := by cases w <;> simp [writeQuotient]

theorem covers_high_half {w : Width} (v : View w) (hw : w ≠ .w32) {k : Nat} (hk : 16 ≤ k) : v.covers k = false := by
  cases v with
  | b r =>
    cases hr : isHigh8 r <;> simp [View.covers, hr] <;> omega
  | w r => simpa [View.covers] using hk
  | d r => exact absurd rfl hw

section
variable {w : Width} {s t : State} {ws : List RegWrite} (hws : StayWide w ws) (ht : t.regs = commitRegs s.regs ws)
include hws ht

theorem extract_high_half_of_stayWide (hw : w ≠ .w32) (r : Reg) :
    (t.regs.get r).extractLsb' 16 16 = (s.regs.get r).extractLsb' 16 16 := by
  apply BitVec.eq_of_getLsbD_eq
  intro i hi
  rw [BitVec.getLsbD_extractLsb', BitVec.getLsbD_extractLsb', ht,
    getLsbD_get_commitRegs fun x hx _ => covers_high_half x.view (hws.widths hw x hx) (by omega)]

theorem get_eq_of_stayWide {r : Reg} (hr : r ∉ wideCells (some w)) : t.regs.get r = s.regs.get r := by
  rw [ht, get_commitRegs_of_ne fun x hx => ne_of_mem_of_not_mem (hws.cells x hx) hr |>.symm]

theorem wideKept_of_stayWide : WideKept w s t := by
  refine ⟨fun r hr => get_eq_of_stayWide hws ht ?_, ?_⟩
  · cases w <;> simp_all [wideCells]
  · cases w with
    | w8 => exact ⟨extract_high_half_of_stayWide hws ht (by decide) .eax, get_eq_of_stayWide hws ht (r := .edx) (by decide)⟩
    | w16 => exact ⟨extract_high_half_of_stayWide hws ht (by decide) .eax, extract_high_half_of_stayWide hws ht (by decide) .edx⟩
    | w32 => trivial

end

/-! ## What is read back -/

/-- The 2w-bit place holds the product that was written (R250). -/
theorem dividend_writeProduct (x : RegFile) {w : Width} {p : Nat} (hp : p < 2 ^ (2 * w.bits)) :
    dividend w (commitRegs x (writeProduct w p)) = p := by
  cases w with
  | w8 =>
    simp only [dividend, writeProduct, commitRegs_cons, commitRegs_nil, readView_writeView_self, BitVec.toNat_ofNat]
    exact Nat.mod_eq_of_lt hp
  | w16 =>
    obtain ⟨hdx, hax⟩ := readView_of_apart x (u := .w .edx) (v := .w .eax) (View.apart_of_cell_ne (by decide))
      (BitVec.ofNat 16 (p / 2 ^ 16)) (BitVec.ofNat 16 p)
    simp only [dividend, writeProduct, commitRegs_cons, commitRegs_nil, hdx, hax, BitVec.toNat_ofNat]
    simp only [Width.bits] at hp ⊢
    omega
  | w32 =>
    simp only [dividend, writeProduct, commitRegs_cons, commitRegs_nil, RegFile.writeView, RegFile.set_eax, RegFile.set_edx,
      RegFile.get_eax, RegFile.get_edx, BitVec.toNat_ofNat]
    simp only [Width.bits] at hp
    omega

/-- The accumulator holds the quotient and its companion the remainder (R254). -/
theorem readView_writeQuotient (x : RegFile) (w : Width) (q r : BitVec w.bits) :
    (commitRegs x (writeQuotient w q r)).readView (accum w) = q ∧ (commitRegs x (writeQuotient w q r)).readView (remainderView w) = r := by
  cases w with
  | w8 => exact readView_of_apart x View.apart_al_ah q r
  | w16 => exact readView_of_apart x (u := .w .eax) (v := .w .edx) (View.apart_of_cell_ne (by decide)) q r
  | w32 => exact readView_of_apart x (u := .d .eax) (v := .d .edx) (View.apart_of_cell_ne (by decide)) q r

/-! ## Completion -/

/-- A handler that answers with writes to the 2w-bit place and flags completes. -/
theorem exec_of_stayWide {i : Instr} {s : State} {w : Width} {ws : List RegWrite} {fs : List (Flag × Bool)}
    (hh : handlerFor i.mnemonic (operandsOf i) s (nextIp i s) = .ok { regs := ws, flags := fs }) (hws : StayWide w ws) :
    ∃ t, exec i s = .next t ∧ t.regs = commitRegs s.regs ws ∧ WideKept w s t ∧ SameMemory s t ∧ Advanced i s t ∧
      t.flags = commitFlags s.flags fs := by
  rw [exec_eq_perform]
  exact ⟨_, perform_ok hh rfl, rfl, wideKept_of_stayWide hws rfl, sameMemory_commit rfl, by simp [Advanced, nextIp], rfl⟩

/-- The flags of a product: CF and OF are `wide`, DF is kept (R250 to R253). -/
theorem commitFlags_product (x : Flags) (wide : Bool) (m : Mnemonic) (wd : Option Width) (xs : List Nat) (before : Flags) :
    let y := commitFlags x ([(.CF, wide), (.OF, wide)] ++ undefFlags m wd xs before [.SF, .ZF, .AF, .PF])
    y.CF = wide ∧ y.OF = wide ∧ y.DF = x.DF := ⟨rfl, rfl, rfl⟩

theorem commitFlags_divFlags (x : Flags) (m : Mnemonic) (w : Width) (n d : Nat) (before : Flags) :
    (commitFlags x (divFlags m w n d before)).DF = x.DF := rfl

/-! ## Unsigned products -/

theorem toNat_mul_toNat_lt {n : Nat} (a b : BitVec n) : a.toNat * b.toNat < 2 ^ (2 * n) := by
  rw [two_mul, pow_add]
  exact Nat.mul_lt_mul'' a.isLt b.isLt

/-- The high half is not zero where the product takes more than `n` bits. -/
theorem div_two_pow_bne_zero (p n : Nat) : (p / 2 ^ n != 0) = decide (2 ^ n ≤ p) := by
  rw [bne, Bool.beq_eq_decide_eq, ← decide_not, decide_eq_decide, ← Ne, Nat.div_ne_zero_iff]
  simp

/-- Settles O9: the product of two numbers below `2 ^ w` fits in the 2w-bit place. -/
theorem mulWritesFullProduct : Obligations.MulWritesFullProduct := by
  intro i s w src b hm ho hb p
  have hh : handlerFor i.mnemonic (operandsOf i) s (nextIp i s) =
      .ok { regs := writeProduct w p
            flags := [(.CF, p / 2 ^ w.bits != 0), (.OF, p / 2 ^ w.bits != 0)] ++
              undefFlags .MUL (some w) [(s.regs.readView (accum w)).toNat, b.toNat] s.flags [.SF, .ZF, .AF, .PF] } := by
    simp only [hm, ho, handlerFor, onOne, mulH, hb, except_ok_bind]
    rfl
  obtain ⟨t, ht, hregs, hkept, hmem, hadv, hflags⟩ := exec_of_stayWide hh (stayWide_writeProduct w p)
  refine ⟨t, ht, ?_, hkept, hmem, hadv, ?_⟩
  · rw [hregs, dividend_writeProduct _ (toNat_mul_toNat_lt _ _)]
  · rw [hflags, ← div_two_pow_bne_zero]
    exact commitFlags_product _ _ _ _ _ _

/-! ## Signed products -/

theorem bits_pos (w : Width) : 0 < w.bits := (Nat.zero_lt_succ 3).trans (four_lt_bits w)

/-- A number that fits in w signed bits is the one that it wraps to. -/
theorem bne_toInt_ofInt (w : Width) (p : Int) :
    (p != (BitVec.ofInt w.bits p).toInt) = decide (p < -2 ^ (w.bits - 1) ∨ 2 ^ (w.bits - 1) ≤ p) := by
  rw [bne, Bool.beq_eq_decide_eq, ← decide_not, decide_eq_decide, ← Ne]
  have hlo := (BitVec.ofInt w.bits p).le_toInt
  have hhi := (BitVec.ofInt w.bits p).toInt_lt
  constructor
  · intro hne
    by_contra hfits
    exact hne (BitVec.toInt_ofInt_eq_self (bits_pos w) (by omega) (by omega)).symm
  · intro hwide heq
    omega

/-- The product of two numbers of w signed bits fits in 2w signed bits (R251). -/
theorem toInt_ofInt_mul {w : Width} (a b : BitVec w.bits) : (BitVec.ofInt (2 * w.bits) (a.toInt * b.toInt)).toInt = a.toInt * b.toInt := by
  have hlo := BitVec.le_toInt_mul_toInt (x := a) (y := b)
  have hhi := BitVec.toInt_mul_toInt_le (x := a) (y := b)
  apply BitVec.toInt_ofInt_eq_self <;> cases w <;> simp only [Width.bits] at * <;> omega

theorem setWidth_ofInt_two_mul {w : Width} (p : Int) : (BitVec.ofInt (2 * w.bits) p).setWidth w.bits = BitVec.ofInt w.bits p := by
  apply BitVec.eq_of_toNat_eq
  cases w <;> simp [Width.bits] <;> omega

/-- Settles O10: the product fits in 2w signed bits, so it is not truncated, and CF and OF ask whether it is the one its low half wraps to. -/
theorem imulOneWritesFullSignedProduct : Obligations.ImulOneWritesFullSignedProduct := by
  intro i s w src b hm ho hb p wide
  have hh : handlerFor i.mnemonic (operandsOf i) s (nextIp i s) =
      .ok { regs := writeProduct w (BitVec.ofInt (2 * w.bits) p).toNat
            flags := [(.CF, wide), (.OF, wide)] ++
              undefFlags .IMUL (some w) [(s.regs.readView (accum w)).toNat, b.toNat] s.flags [.SF, .ZF, .AF, .PF] } := by
    simp only [hm, ho, handlerFor, onImul, imulH, hb, except_ok_bind, toInt_ofInt_mul, setWidth_ofInt_two_mul, bne_toInt_ofInt]
    rfl
  obtain ⟨t, ht, hregs, hkept, hmem, hadv, hflags⟩ := exec_of_stayWide hh (stayWide_writeProduct w _)
  refine ⟨t, ht, ?_, hkept, hmem, hadv, ?_⟩
  · rw [hregs, dividend_writeProduct _ (BitVec.isLt _), BitVec.ofNat_toNat, BitVec.setWidth_eq]
    exact toInt_ofInt_mul _ _
  · rw [hflags]
    exact commitFlags_product _ _ _ _ _ _

/-- The destination of a two- or three-operand IMUL is a register. -/
theorem canWrite_of_imul {i : Instr} (hm : i.mnemonic = .IMUL) {w : Width} {dst : Place w} (s : State)
    (ho : (∃ src, operandsOf i = .two dst src) ∨ ∃ src v, operandsOf i = .three dst src v) : canWrite s dst = true := by
  obtain ⟨w', src', h'⟩ | ⟨w', x, src', h'⟩ | ⟨w', x, src', v', h'⟩ := operandsOf_of_imul hm
  all_goals
    obtain ⟨src, h⟩ | ⟨src, v, h⟩ := ho
    all_goals cases h'.symm.trans h
    all_goals rfl

/-- An IMUL that answers with a truncated product completes (R252, R253). -/
theorem exec_of_imulTo {i : Instr} {s : State} {w : Width} {dst : Place w} {a b : BitVec w.bits}
    (hh : handlerFor i.mnemonic (operandsOf i) s (nextIp i s) = .ok (imulTo s dst a b)) (hw : canWrite s dst = true) :
    let p := a.toInt * b.toInt
    let wide := decide (p < -2 ^ (w.bits - 1) ∨ 2 ^ (w.bits - 1) ≤ p)
    ∃ t, exec i s = .next t ∧ Written s t dst (BitVec.ofInt w.bits p) ∧ Advanced i s t ∧
      t.flags.CF = wide ∧ t.flags.OF = wide ∧ t.flags.DF = s.flags.DF := by
  rw [exec_eq_perform]
  obtain ⟨t, ht, hwritten, hadv, hflags⟩ := perform_stage hh hw
  refine ⟨t, ht, hwritten, hadv, ?_⟩
  rw [hflags, ← bne_toInt_ofInt]
  exact commitFlags_product _ _ _ _ _ _

/-- Settles O11: with two or three operands, the same truncated product is staged to a register. -/
theorem imulTwoAndThreeTruncateProduct : Obligations.ImulTwoAndThreeTruncateProduct := by
  intro i s w dst a b hm hoperands
  obtain ⟨src, ho, ha, hb⟩ | ⟨src, v, ho, ha, hb⟩ := hoperands
  · exact exec_of_imulTo (by simp [hm, ho, handlerFor, onImul, imul2H, ha, hb]) (canWrite_of_imul hm s (.inl ⟨src, ho⟩))
  · exact exec_of_imulTo (by simp [hm, ho, handlerFor, onImul, imul3H, ha, hb]) (canWrite_of_imul hm s (.inr ⟨src, v, ho⟩))

/-! ## Division -/

/-- A division that answers with a quotient and a remainder completes. -/
theorem exec_of_quotient {i : Instr} {s : State} {w : Width} {q r : BitVec w.bits} {m : Mnemonic} {n d : Nat}
    (hh : handlerFor i.mnemonic (operandsOf i) s (nextIp i s) =
      .ok { regs := writeQuotient w q r, flags := divFlags m w n d s.flags }) :
    ∃ t, exec i s = .next t ∧ t.regs.readView (accum w) = q ∧ t.regs.readView (remainderView w) = r ∧ WideKept w s t ∧ SameMemory s t ∧
      Advanced i s t ∧ t.flags.DF = s.flags.DF := by
  obtain ⟨t, ht, hregs, hkept, hmem, hadv, hflags⟩ := exec_of_stayWide hh (stayWide_writeQuotient w q r)
  obtain ⟨hq, hr⟩ := readView_writeQuotient s.regs w q r
  exact ⟨t, ht, by rw [hregs, hq], by rw [hregs, hr], hkept, hmem, hadv, by rw [hflags, commitFlags_divFlags]⟩

/-- Settles O12: the quotient fits by hypothesis, the remainder because it is below the divisor. -/
theorem divWritesQuotientAndRemainder : Obligations.DivWritesQuotientAndRemainder := by
  intro i s w src d hm ho hd hne hfits
  have hrem : dividend w s.regs % d.toNat < 2 ^ w.bits := (Nat.mod_lt _ (Nat.pos_of_ne_zero hne)).trans d.isLt
  have hh : handlerFor i.mnemonic (operandsOf i) s (nextIp i s) =
      .ok { regs := writeQuotient w (BitVec.ofNat w.bits (dividend w s.regs / d.toNat)) (BitVec.ofNat w.bits (dividend w s.regs % d.toNat))
            flags := divFlags .DIV w (dividend w s.regs) d.toNat s.flags } := by
    simp only [hm, ho, handlerFor, onOne, divH, hd, except_ok_bind, if_neg hne, if_neg (Nat.not_le.2 hfits)]
  obtain ⟨t, ht, hq, hr, hrest⟩ := exec_of_quotient hh
  refine ⟨t, ht, ?_, ?_, hrest⟩
  · rw [hq, BitVec.toNat_ofNat, Nat.mod_eq_of_lt hfits]
  · rw [hr, BitVec.toNat_ofNat, Nat.mod_eq_of_lt hrem]

/-- A remainder by a number of w signed bits fits in w signed bits. -/
theorem toInt_ofInt_tmod {w : Width} (n : Int) {d : BitVec w.bits} (hne : d.toInt ≠ 0) :
    (BitVec.ofInt w.bits (n.tmod d.toInt)).toInt = n.tmod d.toInt := by
  have hlo := d.le_toInt
  have hhi := d.toInt_lt
  have hrem : (n.tmod d.toInt).natAbs < d.toInt.natAbs := by
    rw [Int.natAbs_tmod]
    exact Nat.mod_lt _ (Int.natAbs_pos.2 hne)
  exact BitVec.toInt_ofInt_eq_self (bits_pos w) (by omega) (by omega)

/-- Settles O13: the quotient fits by hypothesis, the remainder because it is smaller than the divisor. -/
theorem idivWritesSignedQuotientAndRemainder : Obligations.IdivWritesSignedQuotientAndRemainder := by
  intro i s w src d hm ho hd n hne hlo hhi
  have hmod : n - n.tdiv d.toInt * d.toInt = n.tmod d.toInt := by rw [Int.tmod_def, mul_comm]
  have hfits : ¬ (n.tdiv d.toInt < -2 ^ (w.bits - 1) ∨ 2 ^ (w.bits - 1) - 1 < n.tdiv d.toInt) := by omega
  have hh : handlerFor i.mnemonic (operandsOf i) s (nextIp i s) =
      .ok { regs := writeQuotient w (BitVec.ofInt w.bits (n.tdiv d.toInt)) (BitVec.ofInt w.bits (n.tmod d.toInt))
            flags := divFlags .IDIV w (dividend w s.regs) d.toNat s.flags } := by
    rw [← hmod]
    simp only [hm, ho, handlerFor, onOne, idivH, hd, except_ok_bind, if_neg hne]
    exact if_neg hfits
  obtain ⟨t, ht, hq, hr, hrest⟩ := exec_of_quotient hh
  refine ⟨t, ht, ?_, ?_, hrest⟩
  · rw [hq, BitVec.toInt_ofInt_eq_self (bits_pos w) hlo hhi]
  · rw [hr, toInt_ofInt_tmod n hne]

end Sys2Proof.Machine
end

section
/-! Shifts and rotates (44_shift_rotate.md R270 to R278): the result and the carry of each as numbers or as rotations, for every masked count. -/

namespace Sys2Proof.Machine

/-! ## Completion -/

section
variable {i : Instr} {s : State} {w : Width} {dst : Place w} {cnt : Operand .w8} {d : BitVec w.bits} {n : Byte} {m : Mnemonic}
  {f : BitVec w.bits → Nat → Flags → (Flag → Bool) → Shifted w} (ho : operandsOf i = .byteSrc dst cnt) (hd : readPlace s dst = .ok d)
  (hn : readOperand s cnt = .ok n) (hw : canWrite s dst = true) (hf : handlerFor i.mnemonic (.byteSrc dst cnt) = shiftBy m f dst cnt)
include ho hd hn hw hf

/-- A masked count of 0 stores the value that the operand already holds (R270). -/
theorem exec_of_shiftBy_zero (hc : n.toNat % 32 = 0) :
    ∃ t, exec i s = .next t ∧ t.regs = s.regs ∧ t.flags = s.flags ∧ SameMemory s t ∧ Advanced i s t := by
  rw [exec_eq_perform, ho, hf]
  obtain ⟨t, ht, hadv, hwrite⟩ := perform_shiftBy hd hn hw
  rw [if_pos hc] at hwrite
  obtain ⟨hwritten, hflags⟩ := hwrite
  obtain ⟨hregs, hmem⟩ := written_self hd hwritten
  exact ⟨t, ht, hregs, hflags, hmem, hadv⟩

variable (hc : n.toNat % 32 ≠ 0)
include hc

/-- Another count writes what `f` gives; `u` holds the values of the undefined flags. -/
theorem exec_of_shiftBy :
    ∃ t u, exec i s = .next t ∧ Written s t dst (f d (n.toNat % 32) s.flags u).1 ∧ Advanced i s t ∧
      t.flags = commitFlags s.flags (f d (n.toNat % 32) s.flags u).2 := by
  rw [exec_eq_perform, ho, hf]
  obtain ⟨t, ht, hadv, hwrite⟩ := perform_shiftBy hd hn hw
  rw [if_neg hc] at hwrite
  obtain ⟨hwritten, hflags⟩ := hwrite
  exact ⟨t, _, ht, hwritten, hadv, hflags⟩

variable {r : BitVec w.bits} {cf ofOne : Bool}

/-- A shift to `r` with the carry `cf` (R271 to R273). -/
theorem exec_of_shift
    (hr : ∀ u, f d (n.toNat % 32) s.flags u =
      (r, [(.CF, cf), (.OF, if n.toNat % 32 = 1 then ofOne else u .OF), (.AF, u .AF)] ++ resultFlags r)) :
    ∃ t, exec i s = .next t ∧ Written s t dst r ∧ Advanced i s t ∧ t.flags.CF = cf ∧ (n.toNat % 32 = 1 → t.flags.OF = ofOne) ∧
      t.flags.SF = r.msb ∧ t.flags.ZF = (r == 0#w.bits) ∧ t.flags.PF = parityFlag r ∧ t.flags.DF = s.flags.DF := by
  obtain ⟨t, u, ht, hwritten, hadv, hflags⟩ := exec_of_shiftBy ho hd hn hw hf hc
  rw [hr] at hwritten hflags
  refine ⟨t, ht, hwritten, hadv, ?_⟩
  rw [hflags]
  exact ⟨rfl, fun hone => if_pos hone, rfl, rfl, rfl, rfl⟩

/-- A rotate to `r` with the carry `cf` (R274 to R277). -/
theorem exec_of_rotate
    (hr : ∀ u, f d (n.toNat % 32) s.flags u = (r, [(.CF, cf), (.OF, if n.toNat % 32 = 1 then ofOne else u .OF)])) :
    ∃ t, exec i s = .next t ∧ Written s t dst r ∧ Advanced i s t ∧ t.flags = { s.flags with CF := cf, OF := t.flags.OF } ∧
      (n.toNat % 32 = 1 → t.flags.OF = ofOne) := by
  obtain ⟨t, u, ht, hwritten, hadv, hflags⟩ := exec_of_shiftBy ho hd hn hw hf hc
  rw [hr] at hwritten hflags
  refine ⟨t, ht, hwritten, hadv, ?_⟩
  rw [hflags]
  exact ⟨rfl, fun hone => if_pos hone⟩

end

/-- Settles O15: the seven handlers share `shiftBy`, which writes the old value back. -/
theorem shiftByZeroChangesNothing : Obligations.ShiftByZeroChangesNothing := by
  intro i s w dst cnt d n hm ho hd hn hc hw
  have hf : ∃ m f, handlerFor i.mnemonic (.byteSrc dst cnt) = shiftBy m f dst cnt := by
    simp only [List.mem_cons, List.not_mem_nil, or_false] at hm
    rcases hm with hm | hm | hm | hm | hm | hm | hm <;> rw [hm] <;> exact ⟨_, _, rfl⟩
  obtain ⟨m, f, hf⟩ := hf
  exact exec_of_shiftBy_zero ho hd hn hw hf hc

/-! ## Shifts -/

section
variable {n : Nat} (d : BitVec n) (c : Nat)

theorem shiftLeft_eq_ofNat : d <<< c = BitVec.ofNat n (d.toNat * 2 ^ c) := by
  apply BitVec.eq_of_toNat_eq
  rw [BitVec.toNat_shiftLeft, Nat.shiftLeft_eq, BitVec.toNat_ofNat]

theorem ushiftRight_eq_ofNat : d >>> c = BitVec.ofNat n (d.toNat / 2 ^ c) := by
  apply BitVec.eq_of_toNat_eq
  rw [BitVec.toNat_ushiftRight, Nat.shiftRight_eq_div_pow, BitVec.toNat_ofNat, Nat.mod_eq_of_lt ((Nat.div_le_self _ _).trans_lt d.isLt)]

theorem sshiftRight_eq_ofInt : d.sshiftRight c = BitVec.ofInt n (d.toInt / 2 ^ c) := by
  rw [BitVec.sshiftRight, Int.shiftRight_eq_div_pow]
  norm_cast

/-- The last bit that SHL shifts out is bit `n` of the product. -/
theorem shl_carry : (if c ≤ n then d.getLsbD (n - c) else false) = decide (d.toNat * 2 ^ c / 2 ^ n % 2 = 1) := by
  rw [← Nat.testBit_eq_decide_div_mod_eq, ← Nat.shiftLeft_eq, Nat.testBit_shiftLeft]
  by_cases h : c ≤ n <;> simp [h, BitVec.getLsbD]

/-- The last bit that SHR shifts out is bit `c - 1` of `d`, which is 0 beyond the width. -/
theorem shr_carry : (if c ≤ n then d.getLsbD (c - 1) else false) = decide (d.toNat / 2 ^ (c - 1) % 2 = 1) := by
  rw [← Nat.testBit_eq_decide_div_mod_eq]
  by_cases h : c ≤ n
  · rw [if_pos h, BitVec.getLsbD]
  · rw [if_neg h]
    exact (BitVec.getLsbD_of_ge d (c - 1) (by omega)).symm

theorem getLsbD_zero_eq_toInt (hn : 0 < n) : d.getLsbD 0 = decide (d.toInt % 2 = 1) := by
  have hdvd : (2 : Int) ∣ ((2 ^ n : Nat) : Int) := by exact_mod_cast dvd_pow_self 2 hn.ne'
  have hbit : d.getLsbD 0 = decide (d.toNat % 2 = 1) := by rw [BitVec.getLsbD, Nat.testBit_zero]
  rw [hbit, decide_eq_decide, BitVec.toInt_eq_toNat_cond]
  split <;> omega

/-- The last bit that SAR shifts out is bit 0 of the quotient by `2 ^ (c - 1)`: bit `c - 1` of `d`, or beyond the width its sign. -/
theorem sar_carry (hn : 0 < n) :
    (if c < n then d.getLsbD (c - 1) else d.msb) = decide (d.toInt / 2 ^ (c - 1) % 2 = 1) := by
  have hquot : d.toInt / 2 ^ (c - 1) = (d.sshiftRight (c - 1)).toInt := by
    rw [BitVec.toInt_sshiftRight, Int.shiftRight_eq_div_pow]
    norm_cast
  rw [hquot, ← getLsbD_zero_eq_toInt _ hn, BitVec.getLsbD_sshiftRight]
  obtain hlt | rfl | hgt := lt_trichotomy c n
  · simp [hlt, hn.ne', show c - 1 < n by omega]
  · simp [hn, hn.ne', BitVec.msb_eq_getLsbD_last]
  · simp [hn.ne', show ¬ c < n by omega, show ¬ c - 1 < n by omega]

end

/-- Settles O16: the shifted value and its carry are those of the product `d * 2 ^ c`. -/
theorem shlWritesShiftedAndFlags : Obligations.ShlWritesShiftedAndFlags := by
  intro i s w dst cnt d n hm ho hd hn hc hw c r
  have hr : ∀ u, shlResult d c s.flags u = (r, [(.CF, decide (d.toNat * 2 ^ c / 2 ^ w.bits % 2 = 1)),
      (.OF, if c = 1 then r.msb ^^ decide (d.toNat * 2 ^ c / 2 ^ w.bits % 2 = 1) else u .OF), (.AF, u .AF)] ++ resultFlags r) := by
    intro u
    simp only [shlResult, shl_carry, shiftLeft_eq_ofNat]
    rfl
  obtain ⟨t, ht, hwritten, hadv, hcf, hof, hrest⟩ := exec_of_shift ho hd hn hw (by rw [hm]; rfl) hc hr
  exact ⟨t, ht, hwritten, hadv, hcf, by rwa [hcf], hrest⟩

/-- Settles O17: the shifted value and its carry are those of the quotient of `d`. -/
theorem shrWritesShiftedAndFlags : Obligations.ShrWritesShiftedAndFlags := by
  intro i s w dst cnt d n hm ho hd hn hc hw c r
  refine exec_of_shift ho hd hn hw (f := shrResult) (by rw [hm]; rfl) hc fun u => ?_
  simp only [shrResult, shr_carry, ushiftRight_eq_ofNat]
  rfl

/-- Settles O18: the shifted value and its carry are those of the floor of the signed quotient. -/
theorem sarWritesShiftedAndFlags : Obligations.SarWritesShiftedAndFlags := by
  intro i s w dst cnt d n hm ho hd hn hc hw c r
  refine exec_of_shift ho hd hn hw (f := sarResult) (by rw [hm]; rfl) hc fun u => ?_
  simp only [sarResult, sar_carry d _ (bits_pos w), sshiftRight_eq_ofInt]
  rfl

/-! ## Rotates -/

/-- Settles O19: the results of ROL and ROR are the library's rotations. -/
theorem rolAndRorRotateAndSetCarry : Obligations.RolAndRorRotateAndSetCarry := by
  intro i s w dst cnt d n ho hd hn hc hw c
  constructor
  · intro hm r
    exact exec_of_rotate ho hd hn hw (f := rolResult) (by rw [hm]; rfl) hc fun _ => rfl
  · intro hm r
    exact exec_of_rotate ho hd hn hw (f := rorResult) (by rw [hm]; rfl) hc fun _ => rfl

/-- A masked count needs no reduction at width 32, so it is reduced modulo the length of `CF ++ d` at every width (R276). -/
theorem carryCount_eq_mod {w : Width} {c : Nat} (hc : c < 32) : carryCount w c = c % (w.bits + 1) := by
  cases w with
  | w8 => rfl
  | w16 => rfl
  | w32 => exact (Nat.mod_eq_of_lt (a := c) (hc.trans (by decide))).symm

section
variable {w : Width} (d : BitVec w.bits) {c : Nat} (hc : c < 32) (x : Flags) (u : Flag → Bool)
include hc

theorem rclResult_eq :
    let v := (BitVec.cons x.CF d).rotateLeft c
    rclResult d c x u = (v.setWidth w.bits, [(.CF, v.msb), (.OF, if c = 1 then (v.setWidth w.bits).msb ^^ v.msb else u .OF)]) := by
  simp only [rclResult, carryCount_eq_mod hc]
  rfl

theorem rcrResult_eq :
    let v := (BitVec.cons x.CF d).rotateRight c
    rcrResult d c x u = (v.setWidth w.bits, [(.CF, v.msb), (.OF, if c = 1 then d.msb ^^ x.CF else u .OF)]) := by
  simp only [rcrResult, carryCount_eq_mod hc]
  rfl

end

/-- Settles O20: CF and the operand are the top bit and the rest of the rotated `CF ++ d`. -/
theorem rclAndRcrRotateThroughCarry : Obligations.RclAndRcrRotateThroughCarry := by
  intro i s w dst cnt d n ho hd hn hc hw c
  have hlt : c < 32 := Nat.mod_lt _ (by decide)
  constructor
  · intro hm
    obtain ⟨t, ht, hwritten, hadv, hflags, hof⟩ := exec_of_rotate ho hd hn hw (by rw [hm]; rfl) hc (rclResult_eq d hlt s.flags)
    have hcf := congrArg Flags.CF hflags
    exact ⟨t, _, ht, hwritten, hadv, by rw [hcf, BitVec.cons_msb_setWidth], by rwa [hcf], by rwa [hcf]⟩
  · intro hm
    obtain ⟨t, ht, hwritten, hadv, hflags, hof⟩ := exec_of_rotate ho hd hn hw (by rw [hm]; rfl) hc (rcrResult_eq d hlt s.flags)
    have hcf := congrArg Flags.CF hflags
    exact ⟨t, _, ht, hwritten, hadv, by rw [hcf, BitVec.cons_msb_setWidth], by rwa [hcf], hof⟩

end Sys2Proof.Machine
end

section
/-! Bit operations (45_bit_ops.md R300 to R307): the first set bit in an order, the bytes of a reversed word, and the bits of a word with one bit
written. -/

namespace Sys2Proof.Machine

/-! ## Completion -/

/-- An instruction that writes only flags completes. -/
theorem exec_of_flags {i : Instr} {s : State} {fs : List (Flag × Bool)}
    (hh : handlerFor i.mnemonic (operandsOf i) s (nextIp i s) = .ok { flags := fs }) :
    ∃ t, exec i s = .next t ∧ t.regs = s.regs ∧ SameMemory s t ∧ Advanced i s t ∧ t.flags = commitFlags s.flags fs := by
  rw [exec_eq_perform]
  exact ⟨_, perform_ok hh rfl, rfl, sameMemory_commit rfl, by simp [Advanced, nextIp], rfl⟩

/-! ## Bit scan -/

/-- What a scan of `b` in the order `R` answers: the index that no set bit comes before, or none where no bit is set. -/
def FirstSetBit {n : Nat} (R : Nat → Nat → Prop) (b : BitVec n) : Option Nat → Prop
  | none => b = 0#n
  | some k => k < n ∧ b.getLsbD k = true ∧ ∀ j, R j k → b.getLsbD j = false

/-- A search through all the indices finds the set bit that comes first in the list. -/
theorem firstSetBit_find {n : Nat} (b : BitVec n) {R : Nat → Nat → Prop} {l : List Nat} (hasymm : ∀ j k, R j k → ¬ R k j)
    (hl : ∀ j, j ∈ l ↔ j < n) (hR : l.Pairwise R) : FirstSetBit R b (l.find? fun j => b.getLsbD j) := by
  cases hfind : l.find? fun j => b.getLsbD j with
  | none =>
    refine BitVec.eq_of_getLsbD_eq fun j hj => ?_
    simpa using List.find?_eq_none.1 hfind j ((hl j).2 hj)
  | some k =>
    obtain ⟨hk, before, after, rfl, hbefore⟩ := List.find?_eq_some_iff_append.1 hfind
    refine ⟨(hl k).1 (by simp), hk, fun j hjk => ?_⟩
    by_contra hj
    have hset : b.getLsbD j = true := by simpa using hj
    have hafter : ∀ m ∈ after, R k m := (List.pairwise_cons.1 (List.pairwise_append.1 hR).2.1).1
    have hmem := (hl j).2 (BitVec.lt_of_getLsbD hset)
    simp only [List.mem_append, List.mem_cons] at hmem
    obtain hmem | rfl | hmem := hmem
    · simpa [hset] using hbefore j hmem
    · exact hasymm j j hjk hjk
    · exact hasymm j k hjk (hafter j hmem)

theorem firstSetBit_lowestSet {n : Nat} (b : BitVec n) : FirstSetBit (· < ·) b (lowestSet b) :=
  firstSetBit_find b (fun _ _ => Nat.lt_asymm) (fun _ => List.mem_range) List.pairwise_lt_range

theorem firstSetBit_highestSet {n : Nat} (b : BitVec n) : FirstSetBit (· > ·) b (highestSet b) :=
  firstSetBit_find b (fun _ _ => Nat.lt_asymm) (by simp) (List.pairwise_reverse.2 List.pairwise_lt_range)

/-- A mnemonic whose handler scans in the order `R` writes the index that comes first, or ZF alone. -/
theorem exec_of_scan {i : Instr} {s : State} {w : Width} {x : View w} {src : Operand w} {b : BitVec w.bits}
    {f : BitVec w.bits → Option Nat} {R : Nat → Nat → Prop} (ho : operandsOf i = .two (.reg x) src) (hb : readOperand s src = .ok b)
    (hf : handlerFor i.mnemonic (.two (.reg x) src) = scan f (.reg x) src) (hfirst : FirstSetBit R b (f b)) :
    (b = 0#w.bits →
      ∃ t, exec i s = .next t ∧ t.regs = s.regs ∧ SameMemory s t ∧ Advanced i s t ∧ t.flags = { s.flags with ZF := true }) ∧
    (b ≠ 0#w.bits →
      ∃ t k, exec i s = .next t ∧ k < w.bits ∧ b.getLsbD k = true ∧ (∀ j, R j k → b.getLsbD j = false) ∧
        Written s t (.reg x) (BitVec.ofNat w.bits k) ∧ Advanced i s t ∧ t.flags = { s.flags with ZF := false }) := by
  cases hfound : f b with
  | none =>
    rw [hfound] at hfirst
    exact ⟨fun _ => exec_of_flags (fs := [(.ZF, true)]) (by simp [ho, hf, scan, hb, hfound]), fun hne => absurd hfirst hne⟩
  | some k =>
    rw [hfound] at hfirst
    obtain ⟨hk, hset, hbefore⟩ := hfirst
    refine ⟨fun hzero => by simp [hzero] at hset, fun _ => ?_⟩
    have hstage : scan f (.reg x) src s (nextIp i s) = .ok ((stage s (.reg x) (BitVec.ofNat w.bits k)).withFlags [(.ZF, false)]) := by
      simp [scan, hb, hfound]
    rw [exec_eq_perform, ho, hf]
    obtain ⟨t, ht, hwritten, hadv, hflags⟩ := perform_stage hstage rfl
    exact ⟨t, k, ht, hk, hset, hbefore, hwritten, hadv, hflags⟩

/-- Settles O21: BSF scans upward and BSR downward. -/
theorem bitScanFindsLowestOrHighestBit : Obligations.BitScanFindsLowestOrHighestBit := by
  intro i s w x src b hm ho hb
  have hscan : ∃ (f : BitVec w.bits → Option Nat) (R : Nat → Nat → Prop),
      handlerFor i.mnemonic (.two (.reg x) src) = scan f (.reg x) src ∧ FirstSetBit R b (f b) ∧
        (i.mnemonic = .BSF → ∀ j k, j < k → R j k) ∧ (i.mnemonic = .BSR → ∀ j k, k < j → R j k) := by
    obtain hm | hm := hm
    · exact ⟨lowestSet, (· < ·), by rw [hm]; rfl, firstSetBit_lowestSet b, fun _ _ _ => id, fun h => by simp [hm] at h⟩
    · exact ⟨highestSet, (· > ·), by rw [hm]; rfl, firstSetBit_highestSet b, fun h => by simp [hm] at h, fun _ _ _ => id⟩
  obtain ⟨f, R, hf, hfirst, hlow, hhigh⟩ := hscan
  obtain ⟨hzero, hset⟩ := exec_of_scan ho hb hf hfirst
  refine ⟨hzero, fun hne => ?_⟩
  obtain ⟨t, k, ht, hk, hbit, hbefore, hrest⟩ := hset hne
  exact ⟨t, k, ht, hk, hbit, fun h j hj => hbefore j (hlow h j k hj), fun h j hj => hbefore j (hhigh h j k hj), hrest⟩

/-! ## Byte swap -/

theorem wordBytes_swapBytes (d : Word) : wordBytes (swapBytes d) = (wordBytes d).reverse := wordBytes_append _ _ _ _

theorem extractLsb'_swapBytes (d : Word) {k : Nat} (hk : k < 4) :
    (swapBytes d).extractLsb' (8 * k) 8 = d.extractLsb' (8 * (3 - k)) 8 := by
  have hbyte := congrArg (fun bytes => bytes[k]?) (wordBytes_swapBytes d)
  interval_cases k <;> exact Option.some.inj hbyte

/-- Settles O22: BSWAP writes the four bytes in reverse order, and its list of flags is empty. -/
theorem bswapReversesBytes : Obligations.BswapReversesBytes := by
  intro i s r hm ho
  obtain ⟨t, ht, hwritten, hadv, hflags⟩ := exec_of_unary (s := s) rfl ho rfl (f := fun d => (swapBytes d, [])) (by rw [hm]; rfl)
  exact ⟨t, _, ht, hwritten, hadv, hflags, fun k hk => extractLsb'_swapBytes (s.regs.get r) hk⟩

/-! ## Bit test -/

section
variable {w : Width} (d : BitVec w.bits) (k : Nat) {j : Nat} (hj : j < w.bits)
include hj

theorem getLsbD_bitMask : (bitMask w k).getLsbD j = decide (j = k) := by
  rw [bitMask, BitVec.getLsbD_ofNat, Nat.testBit_two_pow, decide_eq_true hj, Bool.true_and, decide_eq_decide, eq_comm]

theorem getLsbD_or_bitMask : (d ||| bitMask w k).getLsbD j = if j = k then true else d.getLsbD j := by
  rw [BitVec.getLsbD_or, getLsbD_bitMask k hj]
  by_cases h : j = k <;> simp [h]

theorem getLsbD_and_not_bitMask : (d &&& ~~~bitMask w k).getLsbD j = if j = k then false else d.getLsbD j := by
  rw [BitVec.getLsbD_and, BitVec.getLsbD_not, getLsbD_bitMask k hj]
  by_cases h : j = k <;> simp [h, hj]

theorem getLsbD_xor_bitMask : (d ^^^ bitMask w k).getLsbD j = if j = k then !d.getLsbD k else d.getLsbD j := by
  rw [BitVec.getLsbD_xor, getLsbD_bitMask k hj]
  by_cases h : j = k <;> simp [h]

end

section
variable {i : Instr} {s : State} {w v : Width} {dst : Place w} {idx : Operand v} {d : BitVec w.bits} {x : BitVec v.bits}
  (hd : readPlace s dst = .ok d) (hx : readOperand s idx = .ok x)
include hd hx

/-- BT writes CF alone (R304). -/
theorem exec_of_bt (hf : handlerFor i.mnemonic (operandsOf i) = btH dst idx) :
    ∃ t, exec i s = .next t ∧ t.regs = s.regs ∧ SameMemory s t ∧ Advanced i s t ∧
      t.flags = { s.flags with CF := d.getLsbD (bitIndex w x) } :=
  exec_of_flags (fs := [(.CF, d.getLsbD (bitIndex w x))]) (by simp [hf, btH, hd, hx])

/-- The others also write `f` of the operand and the mask: the bit of the index is `bit`, the others are those of `d` (R305 to R307). -/
theorem exec_of_bitModify {f : BitVec w.bits → BitVec w.bits → BitVec w.bits} {bit : Bool}
    (hf : handlerFor i.mnemonic (operandsOf i) = bitModify f dst idx) (hw : canWrite s dst = true)
    (hbits : ∀ j, j < w.bits → (f d (bitMask w (bitIndex w x))).getLsbD j = if j = bitIndex w x then bit else d.getLsbD j) :
    ∃ t r, exec i s = .next t ∧ Written s t dst r ∧ Advanced i s t ∧ t.flags = { s.flags with CF := d.getLsbD (bitIndex w x) } ∧
      ∀ j, j < w.bits → r.getLsbD j = if j = bitIndex w x then bit else d.getLsbD j := by
  have hstage : bitModify f dst idx s (nextIp i s) =
      .ok ((stage s dst (f d (bitMask w (bitIndex w x)))).withFlags [(.CF, d.getLsbD (bitIndex w x))]) := by
    simp [bitModify, hd, hx]
  rw [exec_eq_perform, hf]
  obtain ⟨t, ht, hwritten, hadv, hflags⟩ := perform_stage hstage hw
  exact ⟨t, _, ht, hwritten, hadv, hflags, hbits⟩

end

/-- Settles O23: an index of either width is reduced modulo the operand's, and the three operations change the masked bit alone. -/
theorem bitTestUsesIndexModuloWidth : Obligations.BitTestUsesIndexModuloWidth := by
  intro i s w dst d k hindex hd
  have hany : ∃ (v : Width) (idx : Operand v) (x : BitVec v.bits),
      (∀ f : {w v : Width} → Place w → Operand v → Handler, onBit (operandsOf i) f = f dst idx) ∧
        readOperand s idx = .ok x ∧ k = bitIndex w x := by
    obtain ⟨idx, x, ho, hx, hk⟩ | ⟨idx, x, ho, hx, hk⟩ := hindex
    · exact ⟨w, idx, x, fun f => by rw [ho]; rfl, hx, hk⟩
    · exact ⟨.w8, idx, x, fun f => by rw [ho]; rfl, hx, hk⟩
  obtain ⟨v, idx, x, hbit, hx, rfl⟩ := hany
  refine ⟨fun hm => exec_of_bt hd hx (by rw [hm]; exact hbit btH), fun bit hw hm => ?_⟩
  obtain ⟨hm, rfl⟩ | ⟨hm, rfl⟩ | ⟨hm, rfl⟩ := hm
  · exact exec_of_bitModify hd hx (by rw [hm]; exact hbit btsH) hw fun _ hj => getLsbD_or_bitMask d _ hj
  · exact exec_of_bitModify hd hx (by rw [hm]; exact hbit btrH) hw fun _ hj => getLsbD_and_not_bitMask d _ hj
  · exact exec_of_bitModify hd hx (by rw [hm]; exact hbit btcH) hw fun _ hj => getLsbD_xor_bitMask d _ hj

end Sys2Proof.Machine
end

section
/-! Conditional move (46_conditional_move.md R321 to R337): the handler that the sixteen mnemonics share, and its answer for each outcome of the
predicate. -/

namespace Sys2Proof.Machine

theorem handlerFor_of_cmovCond {m : Mnemonic} {cc : Cond} (h : cmovCond m = some cc) (o : Operands) :
    handlerFor m o = onTwo o (cmovH cc) := by
  cases m <;> cases h <;> rfl

section
variable {w : Width} {s : State} {cc : Cond} {dst : Place w} {src : Operand w} {v : BitVec w.bits} (hv : readOperand s src = .ok v)
include hv

theorem cmovH_of_pred (h : pred s.flags cc = true) (n : Word) : cmovH cc dst src s n = .ok (stage s dst v) := by
  simp [cmovH, hv, h]

theorem cmovH_of_not_pred (h : pred s.flags cc = false) (n : Word) : cmovH cc dst src s n = .ok {} := by
  simp [cmovH, hv, h]

end

/-- Settles O24: a predicate that holds stages the source to the register, one that does not gives the empty effect. -/
theorem cmovWritesOnlyWhenPredicateHolds : Obligations.CmovWritesOnlyWhenPredicateHolds := by
  intro i s cc w x src v hm ho hv
  have hhandler : handlerFor i.mnemonic (operandsOf i) = cmovH cc (.reg x) src := by
    rw [handlerFor_of_cmovCond hm, ho]
    rfl
  cases hp : pred s.flags cc with
  | true =>
    have hstage : cmovH cc (.reg x) src s (nextIp i s) = .ok ((stage s (.reg x) v).withFlags []) := cmovH_of_pred hv hp _
    rw [exec_eq_perform, hhandler]
    obtain ⟨t, ht, hwritten, hadv, hflags⟩ := perform_stage hstage rfl
    exact ⟨t, ht, hadv, hflags, fun _ => hwritten, nofun⟩
  | false =>
    obtain ⟨t, ht, hregs, hmem, hadv, hflags⟩ := exec_of_flags (i := i) (fs := []) (by rw [hhandler, cmovH_of_not_pred hv hp])
    exact ⟨t, ht, hadv, hflags, nofun, fun _ => ⟨hregs, hmem⟩⟩

end Sys2Proof.Machine
end

section
/-! Control transfer (47_control_transfer.md R350 to R375): a push, a pop and a new EIP, each said once for the instructions that share it. -/

namespace Sys2Proof.Machine

/-! ## Completion -/

/-- An instruction completes with the commit of its validated effect record (40_execution.md R175, R176). -/
theorem exec_of_effect {i : Instr} {s : State} {e : Effect} (hh : handlerFor i.mnemonic (operandsOf i) s (nextIp i s) = .ok e)
    (hv : validate s.mem e.mems = none) : exec i s = .next (commit s e (nextIp i s)) := by
  rw [exec_eq_perform]
  exact perform_ok hh hv

/-- An instruction that writes nothing but EIP completes. -/
theorem exec_of_ip {i : Instr} {s : State} {ip : Option Word} (hh : handlerFor i.mnemonic (operandsOf i) s (nextIp i s) = .ok { ip := ip }) :
    ∃ t, exec i s = .next t ∧ t.eip = ip.getD (nextIp i s) ∧ t.regs = s.regs ∧ t.flags = s.flags ∧ SameMemory s t :=
  ⟨_, exec_of_effect hh rfl, rfl, rfl, rfl, sameMemory_commit rfl⟩

/-! ## CALL -/

/-- What a push that was committed with a new EIP leaves (R350). -/
theorem commit_push (s : State) (v target n : Word) :
    let t := commit s { push s v with ip := some target } n
    t.eip = target ∧ t.regs = { s.regs with esp := s.regs.esp - 4#32 } ∧ t.flags = s.flags ∧
      MemWritten s t (s.regs.esp - 4#32).toNat 4 v.toNat :=
  ⟨rfl, rfl, rfl, memWritten_of_bytes rfl rfl⟩

/-- An instruction that pushes `next_ip` and goes to `target` completes where the slot below ESP may be written. -/
theorem exec_of_push {i : Instr} {s : State} {target : Word}
    (hh : handlerFor i.mnemonic (operandsOf i) s (nextIp i s) = .ok { push s (nextIp i s) with ip := some target })
    (hw : s.mem.Admitted .write (s.regs.esp - 4#32).toNat 4) :
    ∃ t, exec i s = .next t ∧ t.eip = target ∧ t.regs = { s.regs with esp := s.regs.esp - 4#32 } ∧ t.flags = s.flags ∧
      MemWritten s t (s.regs.esp - 4#32).toNat 4 (nextIp i s).toNat :=
  ⟨_, exec_of_effect hh (by simpa [push, validate_one] using AddressSpace.check_eq_none.2 hw), commit_push _ _ _ _⟩

/-- Settles O25: the target is relative to the `next_ip` that is pushed. -/
theorem callRelativePushesAndJumps : Obligations.CallRelativePushesAndJumps := by
  intro i s disp hm ho hw
  exact exec_of_push (by rw [hm, ho]; rfl) hw

/-- Settles O26: the target was read before the push, from the state that the handler is given. -/
theorem callIndirectReadsTargetThenPushes : Obligations.CallIndirectReadsTargetThenPushes := by
  intro i s src target hm ho htarget hw
  exact exec_of_push (by simp [hm, ho, handlerFor, onJump, callIndirectH, htarget]) hw

/-- All that a CALL can answer: a push of `next_ip` with a new EIP. -/
theorem handler_of_call {i : Instr} {s : State} {e : Effect} (hm : i.mnemonic = .CALL) {n : Word}
    (he : handlerFor i.mnemonic (operandsOf i) s n = .ok e) : ∃ target, e = { push s n with ip := some target } := by
  rw [hm] at he
  obtain ⟨disp, ho⟩ | ⟨src, ho⟩ := operandsOf_of_call_or_jmp (.inl hm)
  all_goals rw [ho] at he
  · exact ⟨_, (Except.ok.inj he).symm⟩
  · obtain ⟨target, -, he⟩ := except_bind_ok.1 he
    exact ⟨target, (Except.ok.inj he).symm⟩

theorem exec_call_next {i : Instr} {s t : State} (hm : i.mnemonic = .CALL) (h : exec i s = .next t) :
    t.regs.esp = s.regs.esp - 4#32 ∧ MemWritten s t t.regs.esp.toNat 4 (nextIp i s).toNat := by
  rw [exec_eq_perform, perform_next] at h
  obtain ⟨e, he, -, rfl⟩ := h
  obtain ⟨target, rfl⟩ := handler_of_call hm he
  obtain ⟨-, hregs, -, hmem⟩ := commit_push s (nextIp i s) target (nextIp i s)
  have hesp := congrArg RegFile.esp hregs
  exact ⟨hesp, by rwa [hesp]⟩

/-! ## RET -/

/-- An instruction whose handler pops EIP and releases `n` bytes completes where the slot at ESP can be read. -/
theorem exec_of_retH {i : Instr} {s : State} {n : BitVec 16} {v : Word} (hf : handlerFor i.mnemonic (operandsOf i) = retH n)
    (hv : memRead s.mem .w32 s.regs.esp = .ok v) :
    ∃ t, exec i s = .next t ∧ t.eip = v ∧ t.regs = { s.regs with esp := s.regs.esp + 4#32 + n.setWidth 32 } ∧ t.flags = s.flags ∧
      SameMemory s t := by
  have hh : handlerFor i.mnemonic (operandsOf i) s (nextIp i s) =
      .ok { regs := [⟨.w32, .d .esp, s.regs.esp + 4#32 + n.setWidth 32⟩], ip := some v } := by
    simp [hf, retH, hv]
  exact ⟨_, exec_of_effect hh rfl, rfl, rfl, rfl, sameMemory_commit rfl⟩

/-- Settles O27: the plain RET releases 0 bytes more. -/
theorem retPopsAndReleases : Obligations.RetPopsAndReleases := by
  intro i s v n hm hn hv
  refine exec_of_retH ?_ hv
  obtain ⟨ho, rfl⟩ | ho := hn
  all_goals
    rw [hm, ho]
    rfl

/-- Bytes that are those of a number, low byte first, read back as it. -/
theorem Memory.readLE_of_bytes {m : Memory} {a n v : Nat} (h : ∀ k, k < n → Memory.read m (a + k) = BitVec.ofNat 8 (v / 256 ^ k)) :
    Memory.readLE m a n = v % 256 ^ n := by
  induction n generalizing a v with
  | zero => simp [Memory.readLE, Nat.mod_one]
  | succ n ih =>
    have hlow : (Memory.read m a).toNat = v % 256 := by simpa using congrArg BitVec.toNat (h 0 (Nat.succ_pos n))
    have hhigh : Memory.readLE m (a + 1) n = v / 256 % 256 ^ n := ih fun k hk => by
      rw [Nat.add_right_comm, Nat.add_assoc, h (k + 1) (by omega), Nat.div_div_eq_div_mul, Nat.pow_succ']
    rw [Memory.readLE, hlow, hhigh, Nat.pow_succ', Nat.mod_mul]

theorem memRead_of_bytes {x : AddressSpace} {a v : Word} (h : x.Admitted .read a.toNat 4)
    (hb : ∀ k, k < 4 → Memory.read x.bytes (a.toNat + k) = BitVec.ofNat 8 (v.toNat / 256 ^ k)) : memRead x .w32 a = .ok v := by
  rw [memRead_admitted h, Memory.readLE_of_bytes hb, Nat.mod_eq_of_lt (b := 256 ^ Width.w32.bytes) v.isLt]
  exact congrArg Except.ok ((BitVec.ofNat_toNat _ v).trans (BitVec.setWidth_eq v))

/-- Settles O30: the slot still holds the `next_ip` that was pushed, and ESP goes back up by 4. -/
theorem retUndoesCall : Obligations.RetUndoesCall := by
  intro c r s t u hc hr ho ht hesp hadm hsame
  obtain ⟨hpushed, hmem⟩ := exec_call_next hc ht
  have hread : memRead u.mem .w32 u.regs.esp = .ok (nextIp c s) := by
    rw [hesp]
    exact memRead_of_bytes hadm fun k hk => (hsame k hk).trans (hmem.bytes k hk)
  obtain ⟨v, hv, heip, hregs, -⟩ := retPopsAndReleases r u _ 0#16 hr (.inl ⟨ho, rfl⟩) hread
  refine ⟨v, hv, heip, ?_⟩
  rw [hregs, hesp, hpushed]
  simp

/-! ## Jumps -/

/-- Settles O28: a relative and an indirect JMP differ only in where the target comes from. -/
theorem jmpChangesOnlyEip : Obligations.JmpChangesOnlyEip := by
  intro i s target hm htarget
  refine exec_of_ip (ip := some target) ?_
  obtain ⟨disp, ho, rfl⟩ | ⟨src, ho, hread⟩ := htarget
  · rw [hm, ho]
    rfl
  · simp [hm, ho, handlerFor, onJump, jmpIndirectH, hread]

theorem handlerFor_of_jccCond {m : Mnemonic} {cc : Cond} (h : jccCond m = some cc) (o : Operands) :
    handlerFor m o = onTarget o (jccH cc) := by
  cases m <;> cases h <;> rfl

/-- Settles O29: a predicate that holds gives the target as EIP, one that does not leaves `next_ip`. -/
theorem jccJumpsExactlyWhenPredicateHolds : Obligations.JccJumpsExactlyWhenPredicateHolds := by
  intro i s cc disp hm ho
  have hhandler : handlerFor i.mnemonic (operandsOf i) = jccH cc disp := by
    rw [handlerFor_of_jccCond hm, ho]
    rfl
  cases hp : pred s.flags cc with
  | true =>
    obtain ⟨t, ht, heip, hregs, hflags, hmem⟩ :=
      exec_of_ip (i := i) (s := s) (ip := some (relTarget (nextIp i s) disp)) (by simp [hhandler, jccH, hp])
    exact ⟨t, ht, hregs, hflags, hmem, fun _ => heip, nofun⟩
  | false =>
    obtain ⟨t, ht, heip, hregs, hflags, hmem⟩ := exec_of_ip (i := i) (s := s) (ip := none) (by simp [hhandler, jccH, hp])
    exact ⟨t, ht, hregs, hflags, hmem, nofun, fun _ => heip⟩

end Sys2Proof.Machine
end

section
/-! String compare and flag control (48_string_and_flags.md R390 to R398). -/

namespace Sys2Proof.Machine

/-- Settles O31: both elements are read, ESI and EDI are moved alike, and the flags are those of CMP. -/
theorem cmpsComparesAndMovesPointers : Obligations.CmpsComparesAndMovesPointers := by
  intro i s w a b hw ha hb n
  have hh : cmpsH w s (nextIp i s) =
      .ok { regs := [⟨.w32, .d .esi, stringStep w s.flags.DF s.regs.esi⟩, ⟨.w32, .d .edi, stringStep w s.flags.DF s.regs.edi⟩]
            flags := (subF a b false).flags } := by
    simp [cmpsH, ha, hb]
  rw [exec_of_cmps hw, ← commitFlags_sub]
  exact ⟨_, perform_ok hh rfl, sameMemory_commit rfl, rfl, rfl, rfl⟩

/-- An instruction that writes one flag completes, and changes that flag and EIP alone. -/
theorem exec_of_one_flag {i : Instr} {s : State} {f : Flag} {b : Bool}
    (hh : handlerFor i.mnemonic (operandsOf i) s (nextIp i s) = .ok { flags := [(f, b)] }) :
    exec i s = .next { s with flags := setFlag s.flags f b, eip := nextIp i s } :=
  exec_of_effect hh rfl

/-- Settles O32: each of the five stages one flag. -/
theorem flagControlChangesOneFlag : Obligations.FlagControlChangesOneFlag := by
  intro i s x hx
  obtain ⟨hm, rfl⟩ | ⟨hm, rfl⟩ | ⟨hm, rfl⟩ | ⟨hm, rfl⟩ | ⟨hm, rfl⟩ := hx
  · exact exec_of_one_flag (f := .CF) (b := false) (by rw [hm]; rfl)
  · exact exec_of_one_flag (f := .CF) (b := true) (by rw [hm]; rfl)
  · exact exec_of_one_flag (f := .CF) (b := !s.flags.CF) (by rw [hm]; rfl)
  · exact exec_of_one_flag (f := .DF) (b := false) (by rw [hm]; rfl)
  · exact exec_of_one_flag (f := .DF) (b := true) (by rw [hm]; rfl)

end Sys2Proof.Machine
end

section
/-! BCD adjust, sign extension, moves and LEA (49_bcd_extension_moves.md R410 to R434): AX written by halves, and the values that are staged. -/

namespace Sys2Proof.Machine

/-! ## AH and AL -/

theorem extractLsb'_extractLsb' {m : Nat} (v : BitVec m) {i j n k : Nat} (h : i + n ≤ k) :
    (v.extractLsb' j k).extractLsb' i n = v.extractLsb' (j + i) n := by
  apply BitVec.eq_of_getLsbD_eq
  intro b hb
  simp [hb, show i + b < k by omega, Nat.add_assoc]

/-- AL, then AH: bits 31:16 of the cell are kept (10_state.md R33). -/
theorem commitRegs_al_ah (x : RegFile) (l h : Byte) :
    commitRegs x [⟨.w8, .b .al, l⟩, ⟨.w8, .b .ah, h⟩] = { x with eax := x.eax.extractLsb' 16 16 ++ h ++ l } := by
  have hword : (x.eax.extractLsb' 8 24 ++ l).extractLsb' 16 16 ++ h ++ (x.eax.extractLsb' 8 24 ++ l).extractLsb' 0 8 =
      x.eax.extractLsb' 16 16 ++ h ++ l := by
    rw [BitVec.extractLsb'_append_eq_right, BitVec.extractLsb'_append_eq_of_le (by decide), extractLsb'_extractLsb' _ (by decide)]
  exact congrArg (fun v => { x with eax := v }) hword

/-- AH, then AL. -/
theorem commitRegs_ah_al (x : RegFile) (l h : Byte) :
    commitRegs x [⟨.w8, .b .ah, h⟩, ⟨.w8, .b .al, l⟩] = { x with eax := x.eax.extractLsb' 16 16 ++ h ++ l } := by
  have hword : (x.eax.extractLsb' 16 16 ++ h ++ x.eax.extractLsb' 0 8).extractLsb' 8 24 ++ l = x.eax.extractLsb' 16 16 ++ h ++ l := by
    rw [BitVec.extractLsb'_append_eq_left]
  exact congrArg (fun v => { x with eax := v }) hword

/-- A BCD adjust that writes AX by halves completes: three flags are those of the result, three undefined, and DF is kept. -/
theorem exec_of_adjust {i : Instr} {s : State} {ws : List RegWrite} {l h : Byte} {m : Mnemonic} {xs : List Nat}
    (hh : handlerFor i.mnemonic (operandsOf i) s (nextIp i s) =
      .ok { regs := ws, flags := resultFlags l ++ undefFlags m none xs s.flags [.OF, .AF, .CF] })
    (hws : commitRegs s.regs ws = { s.regs with eax := s.regs.eax.extractLsb' 16 16 ++ h ++ l }) :
    ∃ t, exec i s = .next t ∧ t.regs = { s.regs with eax := s.regs.eax.extractLsb' 16 16 ++ h ++ l } ∧ SameMemory s t ∧
      Advanced i s t ∧ t.flags.SF = l.msb ∧ t.flags.ZF = (l == 0#8) ∧ t.flags.PF = parityFlag l ∧ t.flags.DF = s.flags.DF :=
  ⟨_, exec_of_effect hh rfl, hws, sameMemory_commit rfl, rfl, rfl, rfl, rfl, rfl⟩

/-- Settles O33: AL is written before AH, which is cleared. -/
theorem aadComputesAxAndFlags : Obligations.AadComputesAxAndFlags := by
  intro i s base hm ho r
  exact exec_of_adjust (by rw [hm, ho]; rfl) (commitRegs_al_ah s.regs r 0#8)

/-- Settles O34: AH is written before AL, and the handler faults only for base 0. -/
theorem aamComputesAxAndFlags : Obligations.AamComputesAxAndFlags := by
  intro i s base hm ho hbase al r
  have hne : base.toNat ≠ 0 := fun h => hbase (BitVec.eq_of_toNat_eq h)
  exact exec_of_adjust (by rw [hm, ho]; exact if_neg hne) (commitRegs_ah_al s.regs r (BitVec.ofNat 8 (al / base.toNat)))

/-! ## Sign extension -/

/-- An instruction that writes one view completes, and changes that view and EIP alone. -/
theorem exec_of_one_view {i : Instr} {s : State} {w : Width} {x : View w} {v : BitVec w.bits}
    (hh : handlerFor i.mnemonic (operandsOf i) s (nextIp i s) = .ok { regs := [⟨w, x, v⟩] }) :
    exec i s = .next { s with regs := s.regs.writeView x v, eip := nextIp i s } :=
  exec_of_effect hh rfl

/-- An arithmetic shift that leaves the sign alone fills the word with it (R414, R415). -/
theorem sshiftRight_eq_ite_sign {n : Nat} (v : BitVec (n + 1)) :
    v.sshiftRight n = if v.getLsbD n then BitVec.allOnes (n + 1) else 0#(n + 1) := by
  have hmsb : v.msb = v.getLsbD n := v.msb_eq_getLsbD_last
  apply BitVec.eq_of_getLsbD_eq
  intro k hk
  have hbit : (v.sshiftRight n).getLsbD k = v.getLsbD n := by
    rw [BitVec.getLsbD_sshiftRight, hmsb, decide_eq_false (by omega : ¬ n + 1 ≤ k), Bool.not_false, Bool.true_and]
    split
    · rw [show n + k = n by omega]
    · rfl
  rw [hbit]
  cases v.getLsbD n <;> simp [hk]

/-- Settles O35: each of the four stages one view. -/
theorem signExtensionFillsWiderPlace : Obligations.SignExtensionFillsWiderPlace := by
  intro i s x hx
  obtain ⟨hm, rfl⟩ | ⟨hm, rfl⟩ | ⟨hm, rfl⟩ | ⟨hm, rfl⟩ := hx
  · exact exec_of_one_view (x := .w .eax) (by rw [hm]; rfl)
  · exact exec_of_one_view (x := .d .eax) (by rw [hm]; rfl)
  · have hsign : (s.regs.eax.extractLsb' 0 16).getLsbD 15 = s.regs.eax.getLsbD 15 := by simp
    rw [sshiftRight_eq_ite_sign, hsign]
    exact exec_of_one_view (x := .w .edx) (by rw [hm]; rfl)
  · rw [sshiftRight_eq_ite_sign]
    exact exec_of_one_view (x := .d .edx) (by rw [hm]; rfl)

/-! ## Moves -/

/-- An instruction that stages one write to a place it may write, and no flag, completes. -/
theorem exec_of_stage {i : Instr} {s : State} {w : Width} {dst : Place w} {v : BitVec w.bits}
    (hh : handlerFor i.mnemonic (operandsOf i) s (nextIp i s) = .ok (stage s dst v)) (hw : canWrite s dst = true) :
    ∃ t, exec i s = .next t ∧ Written s t dst v ∧ Advanced i s t ∧ t.flags = s.flags := by
  have hstage : handlerFor i.mnemonic (operandsOf i) s (nextIp i s) = .ok ((stage s dst v).withFlags []) := by
    cases dst <;> exact hh
  rw [exec_eq_perform]
  exact perform_stage hstage hw

/-- Settles O36: MOV stages what it read. -/
theorem movWritesSourceAndKeepsFlags : Obligations.MovWritesSourceAndKeepsFlags := by
  intro i s w dst src v hm ho hv hw
  exact exec_of_stage (by simp [hm, ho, handlerFor, onTwo, movH, hv]) hw

theorem setWidth_eq_of_toNat_eq {n k : Nat} {a : BitVec n} {r : BitVec k} (h : r.toNat = a.toNat) : a.setWidth k = r := by
  apply BitVec.eq_of_toNat_eq
  rw [BitVec.toNat_setWidth, ← h, Nat.mod_eq_of_lt r.isLt]

theorem signExtend_eq_of_toInt_eq {n k : Nat} {a : BitVec n} {r : BitVec k} (h : r.toInt = a.toInt) : a.signExtend k = r := by
  rw [BitVec.signExtend, ← h, BitVec.ofInt_toInt]

/-- Settles O37: the extended value is the one of the wider width with the same number. -/
theorem movzxAndMovsxKeepValue : Obligations.MovzxAndMovsxKeepValue := by
  intro i s w v x src a r ho ha hr
  obtain ⟨hm, hr⟩ | ⟨hm, hr⟩ := hr
  · exact exec_of_stage (by simp [hm, ho, handlerFor, onWiden, movzxH, ha, setWidth_eq_of_toNat_eq hr]) rfl
  · exact exec_of_stage (by simp [hm, ho, handlerFor, onWiden, movsxH, ha, signExtend_eq_of_toInt_eq hr]) rfl

/-- The effective address as a number (40_execution.md R167). -/
theorem toNat_address (e : EaExpr) (x : RegFile) :
    (e.address x).toNat =
      ((e.base.elim 0#32 x.get).toNat + (e.index.elim 0#32 x.get).toNat * e.scale.factor.toNat + e.disp.toNat) % 2 ^ 32 := by
  have haddress : e.address x = e.base.elim 0#32 x.get + e.index.elim 0#32 x.get * e.scale.factor + e.disp := by
    obtain ⟨base, index, scale, disp⟩ := e
    cases base <;> cases index <;> rfl
  simp [haddress, BitVec.toNat_add, BitVec.toNat_mul]

/-- Settles O38: LEA stages the address itself and accesses nothing there. -/
theorem leaWritesEffectiveAddress : Obligations.LeaWritesEffectiveAddress := by
  intro i s w x e hm ho cell ea
  have hvalue : (e.address s.regs).setWidth w.bits = BitVec.ofNat w.bits ea := by
    rw [← BitVec.ofNat_toNat, toNat_address]
  exact exec_of_stage (by rw [hm, ho, ← hvalue]; rfl) rfl

end Sys2Proof.Machine
end

section
/-! The faults of a step (60_exceptions.md R440 to R445): a handler faults where a checked read does, or where a division has no result; the decoder
stops at a byte that was fetched. -/

namespace Sys2Proof.Machine

/-! ## Faults of the address space -/

/-- The answer, where it is a fault, is the fault of a byte that is not admitted (20_memory.md R64). -/
def FaultsInMemory {α : Type} (x : AddressSpace) (r : Except Fault α) : Prop := ∀ f, r = .error f → ∃ a, f = x.faultAt a

theorem faultsInMemory_ok {α : Type} {x : AddressSpace} (a : α) : FaultsInMemory x (.ok a) := nofun

theorem faultsInMemory_bind {α β : Type} {x : AddressSpace} {r : Except Fault α} {k : α → Except Fault β} (hr : FaultsInMemory x r)
    (hk : ∀ a, FaultsInMemory x (k a)) : FaultsInMemory x (r >>= k) := by
  cases r with
  | error f => exact fun g h => hr g (by simpa using h)
  | ok a => exact hk a

theorem faultsInMemory_memRead (x : AddressSpace) (w : Width) (a : Word) : FaultsInMemory x (memRead x w a) := by
  intro f h
  obtain ⟨-, hok⟩ | ⟨j, -, -, -, herror⟩ := memRead_eq x w a
  · cases hok.symm.trans h
  · exact ⟨_, Except.error.inj (h.symm.trans herror)⟩

theorem faultsInMemory_readPlace {w : Width} (s : State) (p : Place w) : FaultsInMemory s.mem (readPlace s p) := by
  cases p with
  | reg x => exact faultsInMemory_ok _
  | mem e => exact faultsInMemory_memRead _ _ _

theorem faultsInMemory_readOperand {w : Width} (s : State) (o : Operand w) : FaultsInMemory s.mem (readOperand s o) := by
  cases o with
  | place p => exact faultsInMemory_readPlace s p
  | imm v => exact faultsInMemory_ok _

theorem faultAt_of_validate {x : AddressSpace} {ws : List MemWrite} {f : Fault} (h : validate x ws = some f) : ∃ a, f = x.faultAt a := by
  induction ws with
  | nil => cases h
  | cons w ws ih =>
    unfold validate at h
    split at h
    · next g hg =>
      obtain ⟨j, -, -, -, hf⟩ := AddressSpace.check_eq_some.1 hg
      exact ⟨_, (Option.some.inj h).symm.trans hf⟩
    · exact ih h

theorem faultsInMemory_ite {α : Type} {x : AddressSpace} {c : Prop} [Decidable c] {r q : Except Fault α} (hr : FaultsInMemory x r)
    (hq : FaultsInMemory x q) : FaultsInMemory x (if c then r else q) := by
  split
  · exact hr
  · exact hq

/-! ## Handlers: reads, then an answer that is no fault -/

section
variable {s : State} {w v : Width}

theorem faultsInMemory_of_place {p : Place w} {k : BitVec w.bits → Except Fault Effect} (hk : ∀ a, FaultsInMemory s.mem (k a)) :
    FaultsInMemory s.mem (readPlace s p >>= k) :=
  faultsInMemory_bind (faultsInMemory_readPlace s p) hk

theorem faultsInMemory_of_operand {o : Operand w} {k : BitVec w.bits → Except Fault Effect} (hk : ∀ a, FaultsInMemory s.mem (k a)) :
    FaultsInMemory s.mem (readOperand s o >>= k) :=
  faultsInMemory_bind (faultsInMemory_readOperand s o) hk

theorem faultsInMemory_of_two_reads {p : Place w} {o : Operand v} {k : BitVec w.bits → BitVec v.bits → Effect} :
    FaultsInMemory s.mem (readPlace s p >>= fun a => readOperand s o >>= fun b => .ok (k a b)) :=
  faultsInMemory_of_place fun _ => faultsInMemory_of_operand fun _ => faultsInMemory_ok _

theorem scan_faultsInMemory (f : BitVec w.bits → Option Nat) (d : Place w) (src : Operand w) (n : Word) :
    FaultsInMemory s.mem (scan f d src s n) :=
  faultsInMemory_of_operand fun b => by cases f b <;> exact faultsInMemory_ok _

end

/-- Every handler but those of the divisions faults only where a byte may not be read (60_exceptions.md R442). -/
theorem handlerFor_faultsInMemory {m : Mnemonic} (hm : m ∉ [Mnemonic.DIV, .IDIV, .AAM]) (o : Operands) (s : State) (n : Word) :
    FaultsInMemory s.mem (handlerFor m o s n) := by
  cases m
  case DIV | IDIV | AAM => simp at hm
  case ADD | ADC | SUB | SBB | AND | OR | XOR | CMP | TEST =>
    cases o with
    | two d src => exact faultsInMemory_of_two_reads
    | _ => exact faultsInMemory_ok _
  case INC | DEC | NEG | NOT | MUL =>
    cases o with
    | one d => exact faultsInMemory_of_place fun _ => faultsInMemory_ok _
    | _ => exact faultsInMemory_ok _
  case IMUL =>
    cases o with
    | one src => exact faultsInMemory_of_place fun _ => faultsInMemory_ok _
    | two d src => exact faultsInMemory_of_two_reads
    | three d src imm => exact faultsInMemory_of_two_reads
    | _ => exact faultsInMemory_ok _
  case ROL | ROR | RCL | RCR | SHL | SHR | SAR =>
    cases o with
    | byteSrc d count =>
      exact faultsInMemory_of_place fun _ => faultsInMemory_of_operand fun _ =>
        faultsInMemory_ite (faultsInMemory_ok _) (faultsInMemory_ok _)
    | _ => exact faultsInMemory_ok _
  case BT | BTS | BTR | BTC =>
    cases o with
    | two d idx => exact faultsInMemory_of_two_reads
    | byteSrc d idx => exact faultsInMemory_of_two_reads
    | _ => exact faultsInMemory_ok _
  case BSF | BSR =>
    cases o with
    | two d src => exact scan_faultsInMemory _ d src n
    | _ => exact faultsInMemory_ok _
  case BSWAP =>
    cases o with
    | @one w d =>
      cases w
      case w32 => exact faultsInMemory_of_place fun _ => faultsInMemory_ok _
      all_goals exact faultsInMemory_ok _
    | _ => exact faultsInMemory_ok _
  case MOV =>
    cases o with
    | two d src => exact faultsInMemory_of_operand fun _ => faultsInMemory_ok _
    | _ => exact faultsInMemory_ok _
  case LEA =>
    cases o with
    | two d src => rcases src with (_ | _) | _ <;> exact faultsInMemory_ok _
    | _ => exact faultsInMemory_ok _
  case MOVZX | MOVSX =>
    cases o with
    | widen d src => exact faultsInMemory_of_place fun _ => faultsInMemory_ok _
    | _ => exact faultsInMemory_ok _
  case CMOVO | CMOVNO | CMOVB | CMOVAE | CMOVE | CMOVNE | CMOVBE | CMOVA | CMOVS | CMOVNS | CMOVP | CMOVNP | CMOVL | CMOVGE | CMOVLE
      | CMOVG =>
    cases o with
    | two d src => exact faultsInMemory_of_operand fun _ => faultsInMemory_ite (faultsInMemory_ok _) (faultsInMemory_ok _)
    | _ => exact faultsInMemory_ok _
  case CALL | JMP =>
    cases o with
    | @one w src =>
      cases w
      case w32 => exact faultsInMemory_of_place fun _ => faultsInMemory_ok _
      all_goals exact faultsInMemory_ok _
    | _ => exact faultsInMemory_ok _
  case RET =>
    cases o with
    | none => exact faultsInMemory_bind (faultsInMemory_memRead _ _ _) fun _ => faultsInMemory_ok _
    | @imm w v =>
      cases w
      case w16 => exact faultsInMemory_bind (faultsInMemory_memRead _ _ _) fun _ => faultsInMemory_ok _
      all_goals exact faultsInMemory_ok _
    | _ => exact faultsInMemory_ok _
  case JO | JNO | JB | JAE | JE | JNE | JBE | JA | JS | JNS | JP | JNP | JL | JGE | JLE | JG =>
    cases o with
    | target disp => exact faultsInMemory_ite (faultsInMemory_ok _) (faultsInMemory_ok _)
    | _ => exact faultsInMemory_ok _
  case CMPSB | CMPSW | CMPSD =>
    exact faultsInMemory_bind (faultsInMemory_memRead _ _ _) fun _ =>
      faultsInMemory_bind (faultsInMemory_memRead _ _ _) fun _ => faultsInMemory_ok _
  case AAD =>
    cases o with
    | @imm w v => cases w <;> exact faultsInMemory_ok _
    | _ => exact faultsInMemory_ok _
  case CBW | CWDE | CWD | CDQ | CLC | STC | CMC | CLD | STD => exact faultsInMemory_ok _

/-! ## The divisions -/

theorem except_bind_error {ε α β : Type} {x : Except ε α} {k : α → Except ε β} {f : ε} :
    (x >>= k) = .error f ↔ x = .error f ∨ ∃ a, x = .ok a ∧ k a = .error f := by
  cases x <;> simp

/-- Two guards in a row raise one fault, and what they guard raises none. -/
theorem guards_eq_error {ε α : Type} {c c' : Prop} [Decidable c] [Decidable c'] {f g : ε} {a : α} :
    (if c then .error f else if c' then .error f else .ok a : Except ε α) = .error g ↔ (c ∨ c') ∧ g = f := by
  by_cases h : c <;> by_cases h' : c' <;> simp [h, h', eq_comm]

/-- The quotient of DIV does not fit in w bits, or there is none (R254). -/
def DivHasNoResult (w : Width) (s : State) (d : BitVec w.bits) : Prop := d.toNat = 0 ∨ 2 ^ w.bits ≤ dividend w s.regs / d.toNat

/-- The quotient of IDIV does not fit in w signed bits, or there is none (R255). -/
def IdivHasNoResult (w : Width) (s : State) (d : BitVec w.bits) : Prop :=
  let n := (BitVec.ofNat (2 * w.bits) (dividend w s.regs)).toInt
  d.toInt = 0 ∨ n.tdiv d.toInt < -2 ^ (w.bits - 1) ∨ 2 ^ (w.bits - 1) ≤ n.tdiv d.toInt

theorem divH_eq_error {w : Width} {src : Place w} {s : State} (n : Word) {f : Fault} :
    divH src s n = .error f ↔
      readPlace s src = .error f ∨ ∃ d, readPlace s src = .ok d ∧ DivHasNoResult w s d ∧ f = .divideError s.eip := by
  simp only [divH, except_bind_error, guards_eq_error, DivHasNoResult]

theorem idivH_eq_error {w : Width} {src : Place w} {s : State} (n : Word) {f : Fault} :
    idivH src s n = .error f ↔
      readPlace s src = .error f ∨ ∃ d, readPlace s src = .ok d ∧ IdivHasNoResult w s d ∧ f = .divideError s.eip := by
  have hfits (q : Int) : 2 ^ (w.bits - 1) - 1 < q ↔ 2 ^ (w.bits - 1) ≤ q := Int.sub_one_lt_iff
  simp only [idivH, except_bind_error, guards_eq_error, IdivHasNoResult, hfits]

theorem aamH_eq_error {base : Byte} {s : State} (n : Word) {f : Fault} :
    aamH base s n = .error f ↔ base = 0#8 ∧ f = .divideError s.eip := by
  have hzero : base.toNat = 0 ↔ base = 0#8 := (BitVec.toNat_inj (y := 0#8))
  by_cases h : base = 0#8 <;> simp [aamH, hzero, h, eq_comm]

/-- The operands are those that R442 gives a divide error for. -/
def DivideErrorDue (i : Instr) (s : State) : Prop :=
  i.mnemonic = .AAM ∧ operandsOf i = .imm (w := .w8) 0#8 ∨
    ∃ (w : Width) (src : Place w) (d : BitVec w.bits), operandsOf i = .one src ∧ readPlace s src = .ok d ∧
      (i.mnemonic = .DIV ∧ DivHasNoResult w s d ∨ i.mnemonic = .IDIV ∧ IdivHasNoResult w s d)

/-- All the faults that a handler can raise. -/
theorem handlerFor_fault {i : Instr} {s : State} {n : Word} {f : Fault} (h : handlerFor i.mnemonic (operandsOf i) s n = .error f) :
    (∃ a, f = s.mem.faultAt a) ∨ f = .divideError s.eip ∧ DivideErrorDue i s := by
  by_cases hm : i.mnemonic ∈ [Mnemonic.DIV, .IDIV, .AAM]
  · simp only [List.mem_cons, List.not_mem_nil, or_false] at hm
    obtain hm | hm | hm := hm
    · obtain ⟨w, src, ho⟩ := operandsOf_eq_one (i := i) (by simp [hm])
      rw [hm, ho] at h
      obtain h | ⟨d, hd, hdue, rfl⟩ := (divH_eq_error n).1 h
      · exact .inl (faultsInMemory_readPlace s src f h)
      · exact .inr ⟨rfl, .inr ⟨w, src, d, ho, hd, .inl ⟨hm, hdue⟩⟩⟩
    · obtain ⟨w, src, ho⟩ := operandsOf_eq_one (i := i) (by simp [hm])
      rw [hm, ho] at h
      obtain h | ⟨d, hd, hdue, rfl⟩ := (idivH_eq_error n).1 h
      · exact .inl (faultsInMemory_readPlace s src f h)
      · exact .inr ⟨rfl, .inr ⟨w, src, d, ho, hd, .inr ⟨hm, hdue⟩⟩⟩
    · obtain ⟨base, ho⟩ := operandsOf_of_aad_or_aam (.inr hm)
      rw [hm, ho] at h
      obtain ⟨rfl, rfl⟩ := (aamH_eq_error n).1 h
      exact .inr ⟨rfl, .inl ⟨hm, ho⟩⟩
  · exact .inl (handlerFor_faultsInMemory hm _ s n f h)

/-- All the faults that an instruction can raise: one of memory, or a divide error where it is due. -/
theorem exec_fault {i : Instr} {s : State} {f : Fault} (h : exec i s = .fault f) :
    (∃ a, f = s.mem.faultAt a) ∨ f = .divideError s.eip ∧ DivideErrorDue i s := by
  rw [exec_eq_perform, perform_fault] at h
  obtain h | ⟨e, -, hv⟩ := h
  · exact handlerFor_fault h
  · exact .inl (faultAt_of_validate hv)

/-- Settles O14: the guards of the three handlers, and no other handler, raise it. -/
theorem divideErrorRaisedExactlyWhen : Obligations.DivideErrorRaisedExactlyWhen := by
  refine ⟨fun i s w src d ho hd => ⟨fun hm hdue => ?_, fun hm hdue => ?_⟩, fun i s w src f hm ho hf => ?_, fun i s hm ho => ?_,
    fun i s e h => ?_⟩
  · rw [exec_eq_perform, hm, ho]
    exact perform_error ((divH_eq_error (nextIp i s)).2 (.inr ⟨d, hd, hdue, rfl⟩))
  · rw [exec_eq_perform, hm, ho]
    exact perform_error ((idivH_eq_error (nextIp i s)).2 (.inr ⟨d, hd, hdue, rfl⟩))
  · rw [exec_eq_perform, ho]
    obtain hm | hm := hm
    all_goals rw [hm]
    · exact perform_error ((divH_eq_error (nextIp i s)).2 (.inl hf))
    · exact perform_error ((idivH_eq_error (nextIp i s)).2 (.inl hf))
  · rw [exec_eq_perform, hm, ho]
    exact perform_error ((aamH_eq_error (nextIp i s)).2 ⟨rfl, rfl⟩)
  · obtain ⟨a, hf⟩ | ⟨hf, hdue⟩ := exec_fault h
    · rw [AddressSpace.faultAt_eq] at hf
      cases hf
    · exact ⟨Fault.divideError.inj hf, hdue⟩

end Sys2Proof.Machine
end

section
/-! The bytes of a decode verdict (60_exceptions.md R440, R441): the decoder stops after a byte that it read, and what was fetched is what stands at
EIP. -/

namespace Sys2Proof

/-! ## What a reader leaves -/

/-- The reader leaves no more than `n` bytes unread, where it does not ask for more. -/
def Parsed.LeavesAtMost {α : Type} (n : Nat) : Parsed α → Prop
  | .got _ rest => rest.length ≤ n
  | .refuse _ rest => rest.length ≤ n
  | .more => True

section
variable {n : Nat}

theorem Parsed.LeavesAtMost.mono {α : Type} {x : Parsed α} {k : Nat} (h : x.LeavesAtMost n) (hnk : n ≤ k) : x.LeavesAtMost k := by
  cases x with
  | got a rest => exact le_trans h hnk
  | refuse v rest => exact le_trans h hnk
  | more => trivial

theorem leavesAtMost_andThen {α β : Type} {x : Parsed α} {k : α → List Byte → Parsed β} (hx : x.LeavesAtMost n)
    (hk : ∀ a rest, rest.length ≤ n → (k a rest).LeavesAtMost n) : (x.andThen k).LeavesAtMost n := by
  cases x with
  | got a rest => exact hk a rest hx
  | refuse v rest => exact hx
  | more => trivial

theorem leavesAtMost_ite {α : Type} {c : Prop} [Decidable c] {x y : Parsed α} (hx : x.LeavesAtMost n) (hy : y.LeavesAtMost n) :
    (if c then x else y).LeavesAtMost n := by
  split
  · exact hx
  · exact hy

/-- A reader that reads a field and gives it, put into a form. -/
theorem leavesAtMost_field {α β : Type} {x : Parsed α} (hx : x.LeavesAtMost n) (f : α → β) :
    (x.andThen fun a rest => .got (f a) rest).LeavesAtMost n :=
  leavesAtMost_andThen hx fun _ _ h => h

variable {bs : List Byte} (h : bs.length ≤ n)
include h

theorem leavesAtMost_takeByte : (takeByte bs).LeavesAtMost n := by
  match bs with
  | [] => trivial
  | b :: bs => exact (Nat.le_succ _).trans h

theorem leavesAtMost_takeHalf : (takeHalf bs).LeavesAtMost n := by
  match bs with
  | [] | [_] => trivial
  | b0 :: b1 :: bs => exact (Nat.le_add_right _ 2).trans h

theorem leavesAtMost_takeWord : (takeWord bs).LeavesAtMost n := by
  match bs with
  | [] | [_] | [_, _] | [_, _, _] => trivial
  | b0 :: b1 :: b2 :: b3 :: bs => exact (Nat.le_add_right _ 4).trans h

theorem leavesAtMost_readRm (mb : Byte) : (readRm mb bs).LeavesAtMost n := by
  unfold readRm
  refine leavesAtMost_ite h (leavesAtMost_ite ?_ (leavesAtMost_ite ?_ (leavesAtMost_ite ?_ ?_)))
  · refine leavesAtMost_andThen (leavesAtMost_takeByte h) fun sb rest h => leavesAtMost_ite ?_ (leavesAtMost_ite ?_ ?_)
    · exact leavesAtMost_ite (leavesAtMost_field (leavesAtMost_takeWord h) _) h
    · exact leavesAtMost_field (leavesAtMost_takeByte h) _
    · exact leavesAtMost_field (leavesAtMost_takeWord h) _
  · exact leavesAtMost_ite (leavesAtMost_field (leavesAtMost_takeWord h) _) h
  · exact leavesAtMost_field (leavesAtMost_takeByte h) _
  · exact leavesAtMost_field (leavesAtMost_takeWord h) _

theorem leavesAtMost_readImm (k : ImmKind) (p : Prefixes) : (readImm k p bs).LeavesAtMost n := by
  cases k
  case none => exact h
  case ib | cb => exact leavesAtMost_field (leavesAtMost_takeByte h) _
  case iw => exact leavesAtMost_field (leavesAtMost_takeHalf h) _
  case cd | moffs => exact leavesAtMost_field (leavesAtMost_takeWord h) _
  case iz => exact leavesAtMost_ite (leavesAtMost_field (leavesAtMost_takeHalf h) _) (leavesAtMost_field (leavesAtMost_takeWord h) _)

theorem leavesAtMost_finish (x : Parts) : (finish x bs).LeavesAtMost n := by
  unfold finish
  split <;> exact h

theorem leavesAtMost_unlessRefused {x : Parsed Instr} (hx : x.LeavesAtMost n) (v : Option Reject) :
    (Parsed.unlessRefused v bs x).LeavesAtMost n := by
  cases v with
  | none => exact hx
  | some v => exact h

theorem leavesAtMost_decodeOpcode (tierG : Bool) (p : Prefixes) (escape : Bool) (b : Byte) :
    (decodeOpcode tierG p escape b bs).LeavesAtMost n := by
  by_cases hrows : formsAt escape b = []
  · rw [decodeOpcode_of_no_row hrows]
    exact h
  rw [decodeOpcode_of_rows hrows]
  refine leavesAtMost_ite (leavesAtMost_andThen (leavesAtMost_takeByte h) fun mb rest h => ?_) ?_
  · cases (formsAt escape b).find? fun f => f.row.selected p mb with
    | none => exact h
    | some f =>
      exact leavesAtMost_unlessRefused h (leavesAtMost_andThen (leavesAtMost_readRm h mb) fun rm rest h =>
        leavesAtMost_andThen (leavesAtMost_readImm h _ p) fun v rest h => leavesAtMost_finish h _) _
  · cases (formsAt escape b).find? fun f => f.row.selected p 0#8 with
    | none => exact h
    | some f =>
      exact leavesAtMost_unlessRefused h
        (leavesAtMost_andThen (leavesAtMost_readImm h _ p) fun v rest h => leavesAtMost_finish h _) _

end

/-- Prefixes, then a byte that is read: at least one byte is read. -/
theorem leavesAtMost_readPrefixes_andThen {k : Prefixes → Byte → List Byte → Parsed Instr} (hk : ∀ p b bs, (k p b bs).LeavesAtMost bs.length)
    (acc : Prefixes) (bs : List Byte) :
    ((readPrefixes acc bs).andThen fun p bs => (takeByte bs).andThen (k p)).LeavesAtMost (bs.length - 1) := by
  induction bs generalizing acc with
  | nil => trivial
  | cons b bs ih =>
    unfold readPrefixes
    split
    · exact le_refl bs.length
    · split
      · exact hk acc b bs
      · split
        · exact le_refl bs.length
        · exact (ih _).mono (Nat.sub_le _ _)

theorem leavesAtMost_decodeWith (tierG : Bool) (bs : List Byte) : (decodeWith tierG bs).LeavesAtMost (bs.length - 1) := by
  refine leavesAtMost_readPrefixes_andThen (fun p b bs => leavesAtMost_ite ?_ (leavesAtMost_decodeOpcode le_rfl _ _ _ _)) [] bs
  exact leavesAtMost_andThen (leavesAtMost_takeByte le_rfl) fun b rest h => leavesAtMost_decodeOpcode h _ _ _ _

/-- A verdict is settled by a byte that was read. -/
theorem length_lt_of_refuse {tierG : Bool} {bs rest : List Byte} {v : Reject} (h : decodeWith tierG bs = .refuse v rest) :
    rest.length < bs.length := by
  have hle := leavesAtMost_decodeWith tierG bs
  rw [h] at hle
  cases bs with
  | nil => cases h
  | cons b bs => exact Nat.lt_succ_of_le hle

end Sys2Proof
end

section
/-! What the faults of a step carry (60_exceptions.md R440, R444; 20_memory.md R71). -/

namespace Sys2Proof.Machine

/-! ## What was fetched -/

theorem fetchRun_eq_bytesAt (x : AddressSpace) (n a : Nat) : fetchRun x n a = bytesAt x.bytes a (fetchRun x n a).length := by
  induction n generalizing a with
  | zero => rfl
  | succ n ih =>
    unfold fetchRun
    split
    · exact congrArg _ (ih (a + 1))
    · rfl

theorem take_bytesAt (m : Memory) (a : Nat) {k n : Nat} (h : k ≤ n) : (bytesAt m a n).take k = bytesAt m a k := by
  obtain ⟨j, rfl⟩ := Nat.exists_eq_add_of_le h
  rw [bytesAt_add, List.take_left' (bytesAt_length m a k)]

theorem verdictFault_inj {v v' : Reject} {e e' : Word} {bs bs' : List Byte} (h : verdictFault v e bs = verdictFault v' e' bs') :
    e = e' ∧ bs = bs' := by
  cases v <;> cases v' <;> cases h <;> exact ⟨rfl, rfl⟩

/-- The bytes of a decode verdict: at least one, and those that stand at EIP. -/
def StandAtEip (s : State) (bs : List Byte) : Prop := bs ≠ [] ∧ bs = bytesAt s.mem.bytes s.eip.toNat bs.length

/-- All the faults of fetch and decode: that of a byte, or a verdict with EIP and the bytes there. -/
theorem fetchDecode_fault {cfg : Config} {s : State} {f : Fault} (hmax : 0 < cfg.maxInsnLen) (h : fetchDecode cfg s = .error f) :
    (∃ a, f = s.mem.faultAt a) ∨ ∃ v bs, f = verdictFault v s.eip bs ∧ StandAtEip s bs := by
  have hfetched := fetchRun_eq_bytesAt s.mem cfg.maxInsnLen s.eip.toNat
  unfold fetchDecode at h
  dsimp only at h
  generalize fetchRun s.mem cfg.maxInsnLen s.eip.toNat = bytes at h hfetched
  split at h
  · cases h
  · next v rest hv =>
    have hlt := length_lt_of_refuse hv
    have htake : bytes.take (bytes.length - rest.length) = bytesAt s.mem.bytes s.eip.toNat (bytes.length - rest.length) := by
      rw [hfetched, bytesAt_length, take_bytesAt _ _ (Nat.sub_le _ _)]
    refine .inr ⟨v, _, (Except.error.inj h).symm, ?_, ?_⟩
    · rw [← List.length_pos_iff, htake, bytesAt_length]
      omega
    · rw [htake, bytesAt_length]
  · split at h
    · exact .inl ⟨_, (Except.error.inj h).symm⟩
    · next hlen =>
      refine .inr ⟨.invalidOpcode, bytes, (Except.error.inj h).symm, ?_, hfetched⟩
      rw [← List.length_pos_iff]
      omega

/-! ## The step -/

theorem stepWith_ne_refused (cfg : Config) (s : State) (r : Refusal) : stepWith cfg s ≠ .refused r := by
  unfold stepWith
  split
  · nofun
  · rw [exec_eq_perform]
    exact perform_ne_refused _ _ _ _

/-- All the faults of a step. -/
theorem step_fault {s : State} {f : Fault} (h : step s = .fault f) :
    (∃ a, f = s.mem.faultAt a) ∨ f = .divideError s.eip ∨ ∃ v bs, f = verdictFault v s.eip bs ∧ StandAtEip s bs := by
  unfold step stepWith at h
  split at h
  · next g hg =>
    obtain rfl : g = f := by simpa [raise] using h
    exact (fetchDecode_fault (by decide) hg).imp_right .inr
  · exact (exec_fault h).imp_right fun hdue => .inl hdue.1

/-- Settles O52: each fault of a step carries what the place that raises it put there. -/
theorem stepNeverRefusesAndFaultPayloads : Obligations.StepNeverRefusesAndFaultPayloads := by
  intro s
  refine ⟨stepWith_ne_refused Config.std s, fun k a h => ?_, fun e bs h => ?_⟩
  · obtain ⟨b, hf⟩ | hf | ⟨v, bs, hf, -⟩ := step_fault h
    · rw [AddressSpace.faultAt_eq] at hf
      obtain ⟨rfl, rfl⟩ := Fault.memoryFault.inj hf
      rfl
    · cases hf
    · cases v <;> cases hf
  · have hverdict : ∃ v, step s = .fault (verdictFault v e bs) := by
      obtain h | h := h
      · exact ⟨.invalidOpcode, h⟩
      · exact ⟨.unsupportedInstruction, h⟩
    obtain ⟨v, h⟩ := hverdict
    obtain ⟨b, hf⟩ | hf | ⟨v', bs', hf, hstand⟩ := step_fault h
    · rw [AddressSpace.faultAt_eq] at hf
      cases v <;> cases hf
    · cases v <;> cases hf
    · obtain ⟨rfl, rfl⟩ := verdictFault_inj hf
      exact ⟨rfl, hstand⟩

end Sys2Proof.Machine
end

section
/-! Runs of `n` steps (70_reset_and_hazards.md R474; 60_exceptions.md R448). -/

namespace Sys2Proof.Machine

/-- A run from a state with a well-formed address space ends in one. -/
theorem runSteps_keeps_wf {cfg : Config} {p : Nat} (n : Nat) {s : State} (hs : s.mem.wf p = true) :
    (runSteps cfg n s).1.mem.wf p = true := by
  induction n generalizing s with
  | zero => exact hs
  | succ n ih =>
    unfold runSteps
    split
    · next t ht => exact ih (stepWith_keeps_wf hs ht)
    · exact hs
    · exact hs

/-- A run that ends with a fault ends in a state whose step gives that fault. -/
theorem stepWith_of_runSteps_fault {cfg : Config} {n : Nat} {s : State} {f : Fault} (h : (runSteps cfg n s).2 = some f) :
    stepWith cfg (runSteps cfg n s).1 = .fault f := by
  induction n generalizing s with
  | zero => cases h
  | succ n ih =>
    unfold runSteps at h ⊢
    cases hstep : stepWith cfg s with
    | next t =>
      rw [hstep] at h
      exact ih h
    | fault g =>
      rw [hstep] at h
      cases h
      exact hstep
    | refused r =>
      rw [hstep] at h
      cases h

/-- A run without a fault has none at any length before. -/
theorem runSteps_no_fault_of_le {cfg : Config} {m n : Nat} (hmn : m ≤ n) {s : State} (h : (runSteps cfg n s).2 = none) :
    (runSteps cfg m s).2 = none := by
  induction m generalizing n s with
  | zero => rfl
  | succ m ih =>
    obtain ⟨n, rfl⟩ : ∃ k, n = k + 1 := ⟨n - 1, by omega⟩
    unfold runSteps at h ⊢
    cases hstep : stepWith cfg s with
    | next t =>
      rw [hstep] at h
      exact ih (Nat.le_of_succ_le_succ hmn) h
    | fault g =>
      rw [hstep] at h
      cases h
    | refused r => rfl

/-- Settles O60: a run keeps what each step keeps, and stops at the first fault. -/
theorem runsKeepInvariantAndRepeatFault : Obligations.RunsKeepInvariantAndRepeatFault := fun n _ =>
  ⟨runSteps_keeps_wf n, fun _ => stepWith_of_runSteps_fault, fun h _ hm => runSteps_no_fault_of_le hm h⟩

end Sys2Proof.Machine
end
